-- ==== Sys2Proof/Word.lean ====
section
/-! DEFINITION. Word types of the PMS7003 stream core (00_scope.md R9) and the power of two used to scale exact values. -/

namespace Sys2Proof

/-- A stream byte, an immediate or a register number: 8 bits (R9). -/
abbrev Byte := BitVec 8

/-- A frame field: "`u16` is a 16-bit unsigned integer 0..65535" (R9). -/
abbrev U16 := BitVec 16

/-- A counter, or a register as RDREG reads it: 32 bits (R9, R32). -/
abbrev U32 := BitVec 32

/-- A binary64 bit pattern: bit 63 the sign, 62:52 the exponent, 51:0 the fraction (R56). -/
abbrev Bits64 := BitVec 64

/-- `2 ^ e`, written as a shift so that it evaluates on numerals of any size. -/
def pow2 (e : Nat) : Nat := 1 <<< e

end Sys2Proof
end

