-- ==== Sys2Proof/Syntax.lean ====
section
/-! DEFINITION. The command set: one constructor per row of spec/opcode_table.json with the operands the row lists, the transaction that carries a command (30_encoding.md R75, R76), and the names of the illegal-command causes (60_exceptions.md R231). -/

namespace Sys2Proof

/-- One command of the opcode map (R77), with its immediate and the operand port it is listed for (R76). -/
inductive Instr where
  /-- `RESET` (R210); `imm8` must be 0. -/
  | reset (imm8 : Byte)
  /-- `PUSH b` (R181). -/
  | push (b : Byte)
  /-- `DECODE n` with the 32-byte window port (R110). -/
  | decode (n : Byte) (dwin : BitVec 256)
  /-- `RDREG r` (R211). -/
  | rdreg (r : Byte)
  /-- `AQI25` (R164); `imm8` must be 0. -/
  | aqi25 (imm8 : Byte) (din64 : Bits64)
  /-- `AQI10` (R165); `imm8` must be 0. -/
  | aqi10 (imm8 : Byte) (din64 : Bits64)
  deriving DecidableEq, Repr

/-- One transaction as the host drives it: the command word and the values on the two operand ports (R39, R40). -/
structure Command where
  cmd   : BitVec 16
  din64 : Bits64
  dwin  : BitVec 256
  deriving DecidableEq, Repr

/-- The causes of `IllegalCommand` (R231). -/
inductive Cause where
  /-- 1: the opcode is not in R77. -/
  | unknownOpcode
  /-- 2: RESET, AQI25 or AQI10 with a non-zero immediate. -/
  | nonzeroImm
  /-- 3: RDREG of an unassigned register number. -/
  | badRegister
  /-- 4: DECODE with `n > 32`. -/
  | badLength
  deriving DecidableEq, Repr

end Sys2Proof
end

