-- ==== Sys2Proof/WellFormed.lean ====
section
/-! DEFINITION. Which commands have a legal immediate (30_encoding.md R78). -/

namespace Sys2Proof

/-- The register numbers that name a register: `0x00`..`0x05` and `0x20`..`0x3F` (R32). -/
def regAssigned (r : Byte) : Bool :=
  r.toNat ≤ 0x05 || (0x20 ≤ r.toNat && r.toNat ≤ 0x3F)

/-- The immediate is legal for its opcode (R78): every PUSH is, operand ports are never checked (R235). -/
def Instr.wf : Instr → Bool
  | .reset imm8   => imm8 == 0
  | .push _       => true
  | .decode n _   => n.toNat ≤ 32
  | .rdreg r      => regAssigned r
  | .aqi25 imm8 _ => imm8 == 0
  | .aqi10 imm8 _ => imm8 == 0

end Sys2Proof
end

