-- ==== Sys2Proof/Decode.lean ====
section
/-! DEFINITION. Command words to commands and back (30_encoding.md R75 to R79). The decoder checks the opcode; the immediate is checked by the command itself, second, as R235 orders the checks. -/

namespace Sys2Proof

/-- `cmd[15:8]` (R75). -/
def opField (cmd : BitVec 16) : Byte := cmd.extractLsb' 8 8

/-- `cmd[7:0]` (R75). -/
def immField (cmd : BitVec 16) : Byte := cmd.extractLsb' 0 8

/-- The opcode map (R77). An opcode outside it is rejected by the name of its cause (R79, R231). -/
def decodeCommand (c : Command) : Except Cause Instr :=
  let imm8 := immField c.cmd
  match (opField c.cmd).toNat with
  | 0x01 => .ok (.reset imm8)
  | 0x02 => .ok (.push imm8)
  | 0x03 => .ok (.decode imm8 c.dwin)
  | 0x04 => .ok (.rdreg imm8)
  | 0x10 => .ok (.aqi25 imm8 c.din64)
  | 0x11 => .ok (.aqi10 imm8 c.din64)
  | _    => .error .unknownOpcode

/-- The opcode of a command (R77). -/
def Instr.opcode : Instr → Byte
  | .reset _    => 0x01
  | .push _     => 0x02
  | .decode _ _ => 0x03
  | .rdreg _    => 0x04
  | .aqi25 _ _  => 0x10
  | .aqi10 _ _  => 0x11

/-- The immediate of a command (R78). -/
def Instr.imm : Instr → Byte
  | .reset imm8   => imm8
  | .push b       => b
  | .decode n _   => n
  | .rdreg r      => r
  | .aqi25 imm8 _ => imm8
  | .aqi10 imm8 _ => imm8

/-- The value on `din64` (R76). DESIGN CHOICE, safe: 0 where the command does not read the port, whose value the spec leaves open (log entry 1). -/
def Instr.din64 : Instr → Bits64
  | .aqi25 _ x  => x
  | .aqi10 _ x  => x
  | .reset _    => 0
  | .push _     => 0
  | .decode _ _ => 0
  | .rdreg _    => 0

/-- The value on `dwin` (R76). DESIGN CHOICE, safe: 0 where the command does not read the port, whose value the spec leaves open (log entry 1). -/
def Instr.dwin : Instr → BitVec 256
  | .decode _ x => x
  | .reset _    => 0
  | .push _     => 0
  | .rdreg _    => 0
  | .aqi25 _ _  => 0
  | .aqi10 _ _  => 0

/-- A command's transaction: its word, with its operand port values (R75, R76, R84). -/
def encode (i : Instr) : Command :=
  { cmd := i.opcode ++ i.imm, din64 := i.din64, dwin := i.dwin }

/-- The command that the decoder reads from a 16-bit command word with both operand ports 0, for the host's probe of the opcode table. -/
def decodeTableWord (nbits w : Nat) : Option Instr :=
  if nbits = 16 ∧ w < 65536 then
    match decodeCommand { cmd := BitVec.ofNat 16 w, din64 := 0, dwin := 0 } with
    | .ok i    => some i
    | .error _ => none
  else none

end Sys2Proof
end

