-- ==== Sys2Proof/Machine/Float64.lean ====
section
/-! DEFINITION. IEEE 754 binary64 (00_scope.md R12; decision D6): data, rounding to nearest with ties to even, the four operations, the ordered comparisons, `rha` (42_aqi.md R156) and `f64` of a decimal. A finite datum is held as a whole number of units of `2 ^ -1074`, so every operation is exact first and rounded once. -/

namespace Sys2Proof.Machine

/-- A binary64 datum. `fin neg mag` is `mag * 2 ^ -1074`, negated if `neg`. One `nan` stands for every NaN: no payload is observable (R161); log entry 11. -/
inductive F64 where
  | nan
  | inf (neg : Bool)
  | fin (neg : Bool) (mag : Nat)
  deriving DecidableEq, Repr

/-- `+0.0`. -/
def F64.zero : F64 := .fin false 0

/-- The datum of a bit pattern: `din64[63]` sign, `[62:52]` exponent, `[51:0]` fraction (R56). -/
def F64.ofBits (b : Bits64) : F64 :=
  let neg := b.msb
  let e := (b.extractLsb' 52 11).toNat
  let f := (b.extractLsb' 0 52).toNat
  if e = 2047 then (if f = 0 then .inf neg else .nan)
  else if e = 0 then .fin neg f
  else .fin neg ((pow2 52 + f) * pow2 (e - 1))

/-- How far a magnitude's last place lies above `2 ^ -1074`: it keeps 53 significant bits. -/
def ulpShift (mag : Nat) : Nat := mag.log2 - 52

/-- The low 63 bits of a finite datum: exponent and fraction. -/
def magBits (mag : Nat) : Nat :=
  ulpShift mag * pow2 52 + mag / pow2 (ulpShift mag)

/-- The bit pattern of a datum; a NaN becomes `nanOut` (R160, R161). -/
def F64.toBits (nanOut : Bits64) : F64 → Bits64
  | .nan         => nanOut
  | .inf neg     => BitVec.ofBool neg ++ BitVec.ofNat 63 (2047 * pow2 52)
  | .fin neg mag => BitVec.ofBool neg ++ BitVec.ofNat 63 (magBits mag)

/-- `num / den` to the nearest whole number, ties to even (R12). -/
def roundHalfEven (num den : Nat) : Nat :=
  let q := num / den
  let r := num % den
  if 2 * r < den then q
  else if den < 2 * r then q + 1
  else if q % 2 = 0 then q else q + 1

/-- The first magnitude too large for binary64, `2 ^ 1024` in units of `2 ^ -1074`. -/
def overflowMag : Nat := pow2 2098

/-- The exact value `num / den` units, with the given sign, rounded to binary64: nearest, ties to even, infinity on overflow (R12). -/
def F64.round (neg : Bool) (num den : Nat) : F64 :=
  let e := ulpShift (num / den)
  let mag := roundHalfEven num (den * pow2 e) * pow2 e
  if overflowMag ≤ mag then .inf neg else .fin neg mag

/-- A magnitude with its sign. -/
def signed (neg : Bool) (mag : Nat) : Int := if neg then -(mag : Int) else mag

/-- The datum with its sign flipped. -/
def F64.neg : F64 → F64
  | .nan       => .nan
  | .inf s     => .inf (!s)
  | .fin s mag => .fin (!s) mag

/-- `add64` (R12). An exact zero sum is `-0.0` only when both operands are negative zeros. -/
def add64 : F64 → F64 → F64
  | .nan, _ => .nan
  | _, .nan => .nan
  | .inf s, .inf t => if s = t then .inf s else .nan
  | .inf s, .fin _ _ => .inf s
  | .fin _ _, .inf t => .inf t
  | .fin s a, .fin t b =>
    let sum := signed s a + signed t b
    if sum = 0 then .fin (s && t) 0 else F64.round (decide (sum < 0)) sum.natAbs 1

/-- `sub64` (R12). -/
def sub64 (x y : F64) : F64 := add64 x y.neg

/-- `mul64` (R12). -/
def mul64 : F64 → F64 → F64
  | .nan, _ => .nan
  | _, .nan => .nan
  | .inf s, .inf t => .inf (s != t)
  | .inf s, .fin t b => if b = 0 then .nan else .inf (s != t)
  | .fin s a, .inf t => if a = 0 then .nan else .inf (s != t)
  | .fin s a, .fin t b => F64.round (s != t) (a * b) (pow2 1074)

/-- `div64` (R12). -/
def div64 : F64 → F64 → F64
  | .nan, _ => .nan
  | _, .nan => .nan
  | .inf _, .inf _ => .nan
  | .inf s, .fin t _ => .inf (s != t)
  | .fin s _, .inf t => .fin (s != t) 0
  | .fin s a, .fin t b =>
    if b = 0 then (if a = 0 then .nan else .inf (s != t))
    else F64.round (s != t) (a * pow2 1074) b

/-- `lt64`: the ordered comparison `a < b`, false when either operand is NaN (R12). -/
def lt64 : F64 → F64 → Bool
  | .nan, _ => false
  | _, .nan => false
  | .inf s, .inf t => s && !t
  | .inf s, .fin _ _ => s
  | .fin _ _, .inf t => !t
  | .fin s a, .fin t b => decide (signed s a < signed t b)

/-- `gt64` (R12). -/
def gt64 (x y : F64) : Bool := lt64 y x

/-- `le64`: the ordered comparison `a ≤ b`, false when either operand is NaN (R12). -/
def le64 : F64 → F64 → Bool
  | .nan, _ => false
  | _, .nan => false
  | .inf s, .inf t => s || !t
  | .inf s, .fin _ _ => s
  | .fin _ _, .inf t => !t
  | .fin s a, .fin t b => decide (signed s a ≤ signed t b)

/-- `rha`: to an integer, ties away from zero, computed exactly; the sign is kept (R156). -/
def rha : F64 → F64
  | .nan       => .nan
  | .inf s     => .inf s
  | .fin s mag => .fin s ((mag + pow2 1073) / pow2 1074 * pow2 1074)

/-- `f64` of the value `num / den`, negated if `neg`: the nearest binary64, ties to even (R12). -/
def f64OfRat (neg : Bool) (num den : Nat) : F64 := F64.round neg (num * pow2 1074) den

/-- `f64` of a whole number, as AQI25U and AQI10U convert a u16 (R86). -/
def f64OfNat (n : Nat) : F64 := f64OfRat false n 1

/-- The datum is finite (R151). -/
def F64.isFinite : F64 → Bool
  | .nan     => false
  | .inf _   => false
  | .fin _ _ => true

end Sys2Proof.Machine
end

