-- ==== Sys2Proof/Config.lean ====
section
/-! DEFINITION. The block's fixed parameters (00_scope.md R6), the type of its build-time ROM contents (R7, R150), their default (R152, R153), and the free values. -/

namespace Sys2Proof

/-- One table entry, a pair `(low, high)` of binary64 bit patterns (R7, R53). -/
structure Bounds where
  low  : Bits64
  high : Bits64
  deriving DecidableEq, Repr

/-- A table: exactly `N_BUCKETS` = 7 entries (R6, R7). -/
abbrev Table := Vector Bounds 7

/-- What is fixed when the block is built and never written: the three table ROMs (R34) and the parameter `NAN_OUT` (R6, U5). -/
structure Rom where
  /-- PM2.5 concentration breakpoints. -/
  bp25   : Table
  /-- PM10 concentration breakpoints. -/
  bp10   : Table
  /-- The shared AQI output ranges. -/
  idx    : Table
  /-- The canonical quiet NaN of an AQI result (R161). -/
  nanOut : Bits64
  deriving DecidableEq, Repr

namespace Config

/-- `MARKER0` (R6). -/
def marker0 : Byte := 0x42#8
/-- `MARKER1` (R6). -/
def marker1 : Byte := 0x4D#8
/-- `FRAME_BYTES` (R6). -/
def frameBytes : Nat := 32
/-- `BUF_BYTES` (R6). -/
def bufBytes : Nat := 32
/-- `IDX_MIN` = 0 as binary64 (R6, R151). -/
def idxMin : Bits64 := 0x0000000000000000
/-- `IDX_MAX` = 500 as binary64 (R6, R151). -/
def idxMax : Bits64 := 0x407F400000000000
/-- The default `NAN_OUT` (R6; decision D8). -/
def nanOut : Bits64 := 0x7FF8000000000000

@[simp] theorem marker0_eq : marker0 = 0x42#8 := rfl
@[simp] theorem marker1_eq : marker1 = 0x4D#8 := rfl
@[simp] theorem frameBytes_eq : frameBytes = 32 := rfl
@[simp] theorem bufBytes_eq : bufBytes = 32 := rfl

/-- PRESUMED, unsafe: the default `BP25` (R153), which the spec takes from general knowledge (G1); log entry 7. -/
def bp25 : Table := #v[
  ⟨0x0000000000000000, 0x4028000000000000⟩,
  ⟨0x4028333333333333, 0x4041B33333333333⟩,
  ⟨0x4041C00000000000, 0x404BB33333333333⟩,
  ⟨0x404BC00000000000, 0x4062CCCCCCCCCCCD⟩,
  ⟨0x4062D00000000000, 0x406F4CCCCCCCCCCD⟩,
  ⟨0x406F500000000000, 0x4075E66666666666⟩,
  ⟨0x4075E80000000000, 0x407F466666666666⟩]

/-- PRESUMED, unsafe: the default `BP10` (R153); log entry 7. -/
def bp10 : Table := #v[
  ⟨0x0000000000000000, 0x404B000000000000⟩,
  ⟨0x404B800000000000, 0x4063400000000000⟩,
  ⟨0x4063600000000000, 0x406FC00000000000⟩,
  ⟨0x406FE00000000000, 0x4076200000000000⟩,
  ⟨0x4076300000000000, 0x407A800000000000⟩,
  ⟨0x407A900000000000, 0x407F800000000000⟩,
  ⟨0x407F900000000000, 0x4082E00000000000⟩]

/-- PRESUMED, unsafe: the default `IDX` (R153); log entry 7. -/
def idx : Table := #v[
  ⟨0x0000000000000000, 0x4049000000000000⟩,
  ⟨0x4049800000000000, 0x4059000000000000⟩,
  ⟨0x4059400000000000, 0x4062C00000000000⟩,
  ⟨0x4062E00000000000, 0x4069000000000000⟩,
  ⟨0x4069200000000000, 0x4072C00000000000⟩,
  ⟨0x4072D00000000000, 0x4079000000000000⟩,
  ⟨0x4079100000000000, 0x407F400000000000⟩]

/-- The default ROM contents (R152, R153; decision D10). -/
def defaultRom : Rom := ⟨bp25, bp10, idx, nanOut⟩

/-- FREE VALUE, safe: the byte that the `nth` power-on leaves at `offset` of the window, which the spec leaves unspecified (R36, U3); log entry 6. -/
opaque powerOnByte (nth offset : Nat) : Byte

end Config

end Sys2Proof
end

