-- ==== Sys2Proof/Machine/State.lean ====
section
/-! DEFINITION. The block's state (10_state.md R20 to R34), the records on its ports (30_encoding.md R80 to R82), the environment's side of the ports as plain data (R37), why a step can stop, and the state after reset (R36). -/

namespace Sys2Proof.Machine

/-- The fields of `STATUS` that are held (R27). Bits 31:8 are hard-wired 0 and are not: `Status.word` reads them as 0. -/
structure Status where
  /-- Bit 0: any command was illegal since reset. -/
  ill  : Bool
  /-- Bit 1: a drain ended on `MalformedInput` since reset. -/
  mal  : Bool
  /-- Bit 2: the most recent PUSH emitted a frame. -/
  frm  : Bool
  /-- Bits 4:3: how many bytes the most recent PUSH skipped. -/
  skp  : BitVec 2
  /-- Bits 7:5: the cause code of the most recent illegal command. -/
  illc : BitVec 3
  deriving DecidableEq, Repr

/-- A DecodedFrame: the fifteen u16 fields in wire order (R71, R121). -/
structure Frame where
  frameLength : U16
  pm1Cf1      : U16
  pm25Cf1     : U16
  pm10Cf1     : U16
  pm1Atmo     : U16
  pm25Atmo    : U16
  pm10Atmo    : U16
  pm03Count   : U16
  pm05Count   : U16
  pm1Count    : U16
  pm25Count   : U16
  pm5Count    : U16
  pm10Count   : U16
  reserved    : U16
  checksum    : U16
  deriving DecidableEq, Repr

/-- The answer of the frame decoder (R16, R81, R101). -/
inductive DecodeResult where
  /-- `Frame(value, 32)`: a whole frame stands at offset 0 (R106). -/
  | frame (f : Frame)
  /-- `Skip(1)`: the byte at offset 0 begins no marker (R103, R104). -/
  | skip
  /-- `NeedMoreBytes(minimum_additional)` (R102, R105). -/
  | needMoreBytes (additional : Nat)
  /-- `MalformedInput`: reserved, never produced (R107). -/
  | malformedInput
  deriving DecidableEq, Repr

/-- The response record of a command (R80). -/
structure Response where
  ok    : Bool
  cause : BitVec 3
  data  : BitVec 248
  deriving DecidableEq, Repr

/-- One thing the block delivers: a 240-bit frame record on the sink port (R42, R82) or a response on the response port (R41). -/
inductive Output where
  | frame (record : BitVec 240)
  | response (r : Response)
  deriving DecidableEq, Repr

/-- One thing the outside does to the block: a command (R39) or a power-on (R270). -/
inductive Input where
  | command (c : Command)
  | powerOn
  deriving DecidableEq, Repr

/-- One block instance with what stands at its ports. -/
structure State where
  /-- `BUF[0]`..`BUF[31]`, the reassembly window (R23). -/
  buf      : Vector Byte 32
  /-- `LEN`, how many bytes of the window are remainder (R24). -/
  len      : BitVec 6
  /-- `NEED`, the count of the last `NeedMoreBytes` (R26). -/
  need     : BitVec 6
  /-- `STATUS` (R27). -/
  status   : Status
  /-- `FRAME_CNT` (R28). -/
  frameCnt : U32
  /-- `SKIP_CNT` (R29). -/
  skipCnt  : U32
  /-- `BYTE_CNT` (R30). -/
  byteCnt  : U32
  /-- `BP25`, `BP10`, `IDX` and `NAN_OUT`, fixed when the block is built (R34, R7). -/
  rom      : Rom
  /-- DESIGN CHOICE, safe: what the outside does next, oldest first (R37, R39); log entry 2. -/
  inputs   : List Input
  /-- DESIGN CHOICE, safe: what the block has delivered, oldest first (R41, R42); log entry 2. -/
  trace    : List Output
  /-- DESIGN CHOICE, safe: the model's own count of power-ons, which makes their free window bytes fresh; log entry 6. -/
  powerOns : Nat
  deriving DecidableEq, Repr

/-- Why a step stops with a fault. -/
inductive Fault where
  /-- Raised by PUSH when `LEN` is 32 or more, so that `BUF[LEN]` does not exist. Safe: the spec says these values never occur between commands (R24); log entry 9. -/
  | appendBeyondWindow
  deriving DecidableEq, Repr

/-- Why a step is refused. -/
inductive Refusal where
  /-- Answered by exec's arm of an instruction without a meaning; safe. No arm answers it. -/
  | notModelled (mnemonic : String)
  /-- Answered by the step when the ROM contents break R151, so that the block cannot have been built with them. Safe: "the block gives it no meaning"; log entry 8. -/
  | illFormedTables
  deriving DecidableEq, Repr

/-- `STATUS` = 0 (R36). -/
def Status.reset : Status := { ill := false, mal := false, frm := false, skp := 0, illc := 0 }

/-- The block after reset (R36, R270), waiting for its first command (R271). DESIGN CHOICE, unsafe: the window bytes, which R36 leaves unspecified and no command can observe, are 0 (log entry 4). PRESUMED, unsafe: the ROMs hold the default contents (log entry 7). -/
def State.reset : State :=
  { buf := Vector.replicate 32 0
    len := 0
    need := 32
    status := Status.reset
    frameCnt := 0
    skipCnt := 0
    byteCnt := 0
    rom := Config.defaultRom
    inputs := []
    trace := []
    powerOns := 0 }

end Sys2Proof.Machine
end

