-- ==== Sys2Proof/Machine/Deserializer.lean ====
section
/-! DEFINITION. The big-endian deserializer (41_deserializer.md): `be16`, `parse`, the frame record on the ports (30_encoding.md R82), and `enc`, the inverse (R140). -/

namespace Sys2Proof.Machine

/-- `be16(hi, lo)`: the byte first on the wire is the high byte (R120). -/
def be16 (hi lo : Byte) : U16 := hi ++ lo

/-- Field `k` of a 32-byte frame: its bytes stand at offsets `2+2k` and `3+2k` (R71, R121). -/
def fieldAt (w : List Byte) (k : Nat) : U16 := be16 (w.getD (2 + 2 * k) 0) (w.getD (3 + 2 * k) 0)

/-- `parse` (R121): the fifteen fields in wire order, each taken as it stands (R74, R137). -/
def parse (w : List Byte) : Frame :=
  { frameLength := fieldAt w 0
    pm1Cf1      := fieldAt w 1
    pm25Cf1     := fieldAt w 2
    pm10Cf1     := fieldAt w 3
    pm1Atmo     := fieldAt w 4
    pm25Atmo    := fieldAt w 5
    pm10Atmo    := fieldAt w 6
    pm03Count   := fieldAt w 7
    pm05Count   := fieldAt w 8
    pm1Count    := fieldAt w 9
    pm25Count   := fieldAt w 10
    pm5Count    := fieldAt w 11
    pm10Count   := fieldAt w 12
    reserved    := fieldAt w 13
    checksum    := fieldAt w 14 }

/-- The fields in the order of R71: entry `k` is field `k`. -/
def Frame.fields (f : Frame) : List U16 :=
  [f.frameLength, f.pm1Cf1, f.pm25Cf1, f.pm10Cf1, f.pm1Atmo, f.pm25Atmo, f.pm10Atmo,
   f.pm03Count, f.pm05Count, f.pm1Count, f.pm25Count, f.pm5Count, f.pm10Count, f.reserved, f.checksum]

/-- The 240-bit record: field `k` at bits `16k+15:16k`, so `frame_length` at bits 15:0 and `checksum` at bits 239:224 (R82). -/
def Frame.pack (f : Frame) : BitVec 240 :=
  f.fields.foldr (fun v later => later <<< 16 ||| v.setWidth 240) 0

/-- `hi(v)` then `lo(v)` (R140). -/
def u16Bytes (v : U16) : List Byte := [v.extractLsb' 8 8, v.extractLsb' 0 8]

/-- `enc(f)`: the 32 wire bytes of a frame (R140). -/
def enc (f : Frame) : List Byte := Config.marker0 :: Config.marker1 :: f.fields.flatMap u16Bytes

end Sys2Proof.Machine
end

