-- ==== Sys2Proof/Machine/Flags.lean ====
section
/-! DEFINITION. The status register: how it reads and what writes it (10_state.md R27), and the cause codes (60_exceptions.md R231). -/

namespace Sys2Proof.Machine

/-- The 3-bit code of a cause (R231). -/
def causeCode : Cause → BitVec 3
  | .unknownOpcode => 1
  | .nonzeroImm    => 2
  | .badRegister   => 3
  | .badLength     => 4

/-- `STATUS[31:0]` (R27): ILL at bit 0, MAL 1, FRM 2, SKP 4:3, ILLC 7:5, the rest 0. -/
def Status.word (st : Status) : U32 :=
  (BitVec.ofBool st.ill).setWidth 32
    ||| (BitVec.ofBool st.mal).setWidth 32 <<< 1
    ||| (BitVec.ofBool st.frm).setWidth 32 <<< 2
    ||| st.skp.setWidth 32 <<< 3
    ||| st.illc.setWidth 32 <<< 5

/-- What an illegal command writes: ILL and ILLC only (R27, R233). -/
def Status.recordIllegal (k : Cause) (st : Status) : Status :=
  { st with ill := true, illc := causeCode k }

/-- What a PUSH writes: FRM and SKP from the drain's counts, and MAL, set but never cleared (R181, R187). In a state that no run reaches a drain can skip more than two bytes; SKP then keeps the two low bits of the count (log entry 10). -/
def Status.recordPush (frames skips : Nat) (malformed : Bool) (st : Status) : Status :=
  { st with frm := frames != 0, skp := BitVec.ofNat 2 skips, mal := st.mal || malformed }

end Sys2Proof.Machine
end

