-- ==== Sys2Proof/Machine/Operands.lean ====
section
/-! DEFINITION. The operand forms: register numbers and register reads (10_state.md R32, R33), the remainder (R24), the DECODE buffer on `dwin` (30_encoding.md R76), and the check of an immediate (R78). -/

namespace Sys2Proof.Machine

/-- What a register number names (R32). -/
inductive Reg where
  | status
  | len
  | need
  | frameCnt
  | skipCnt
  | byteCnt
  | buf (i : Fin 32)
  deriving DecidableEq, Repr

/-- The register that a number names, none where it is unassigned (R32). -/
def regOfNumber (r : Byte) : Option Reg :=
  match r.toNat with
  | 0x00 => some .status
  | 0x01 => some .len
  | 0x02 => some .need
  | 0x03 => some .frameCnt
  | 0x04 => some .skipCnt
  | 0x05 => some .byteCnt
  | n => if h : 0x20 ≤ n ∧ n ≤ 0x3F then some (.buf ⟨n - 0x20, by omega⟩) else none

/-- A register as a 32-bit value, zero-extended (R32). A window byte at or beyond LEN reads as 0 (R33). -/
def readReg (s : State) : Reg → U32
  | .status   => s.status.word
  | .len      => s.len.setWidth 32
  | .need     => s.need.setWidth 32
  | .frameCnt => s.frameCnt
  | .skipCnt  => s.skipCnt
  | .byteCnt  => s.byteCnt
  | .buf i    => if i.val < s.len.toNat then s.buf[i].setWidth 32 else 0

/-- The remainder as a byte sequence: `BUF[0]` to `BUF[LEN-1]` (R24). -/
def remainder (s : State) : List Byte := s.buf.toList.take s.len.toNat

/-- Byte `i` of a DECODE buffer: `dwin[8i+7:8i]` (R76). -/
def dwinByte (dwin : BitVec 256) (i : Nat) : Byte := dwin.extractLsb' (8 * i) 8

/-- The `n` bytes of a DECODE buffer, offset 0 first; bytes at `n` and beyond are ignored (R76, R110). -/
def dwinBytes (n : Nat) (dwin : BitVec 256) : List Byte := (List.range n).map (dwinByte dwin)

/-- The immediate of RESET, AQI25 and AQI10 must be 0 (R78). -/
def mustBeZero (imm8 : Byte) : Option Cause := if imm8 = 0 then none else some .nonzeroImm

/-- The length of a DECODE buffer must be at most 32 (R78). -/
def lengthCheck (n : Byte) : Option Cause := if n.toNat ≤ 32 then none else some .badLength

end Sys2Proof.Machine
end

