-- ==== Sys2Proof/Machine/Ops.lean ====
section
/-! DEFINITION. The named operations over the block's registers, window and ports, and the one exception: raising IllegalCommand (60_exceptions.md R233). There is no return from it (R238). -/

namespace Sys2Proof.Machine

/-- `respond(v)` (R11): the response goes out after everything delivered so far (R41). -/
def respond (r : Response) (s : State) : State := { s with trace := s.trace ++ [.response r] }

/-- A legal command's response (R80). -/
def okResponse (data : BitVec 248) : Response := { ok := true, cause := 0, data := data }

/-- An illegal command's response (R80, R233). -/
def illegalResponse (k : Cause) : Response := { ok := false, cause := causeCode k, data := 0 }

/-- What the sink port carries for a frame: its record of R82 (R42). -/
def sinkRecord (f : Frame) : Output := .frame f.pack

/-- `emit(f)` for each frame in turn (R11, R42). -/
def emitAll (fs : List Frame) (s : State) : State := { s with trace := s.trace ++ fs.map sinkRecord }

/-- `raise IllegalCommand(k)`: ILL and ILLC are written, the response says so, and nothing else changes (R233). -/
def raiseIllegal (k : Cause) (s : State) : State :=
  respond (illegalResponse k) { s with status := s.status.recordIllegal k }

/-- `BUF[0..|rest|-1] <- rest`; the window bytes beyond keep their values (R181); log entry 5. -/
def writeWindow (rest : List Byte) (buf : Vector Byte 32) : Vector Byte 32 :=
  ⟨(rest.take 32 ++ buf.toList.drop rest.length).toArray, by simp; omega⟩

/-- The new remainder at offset 0, and its length (R181). -/
def storeRemainder (rest : List Byte) (s : State) : State :=
  { s with buf := writeWindow rest s.buf, len := BitVec.ofNat 6 rest.length }

/-- The counters after a PUSH, modulo 2^32 (R28, R29, R30). -/
def countPush (frames skips : Nat) (s : State) : State :=
  { s with
    byteCnt := s.byteCnt + 1
    frameCnt := s.frameCnt + BitVec.ofNat 32 frames
    skipCnt := s.skipCnt + BitVec.ofNat 32 skips }

/-- Every register at its reset value, the window bytes left as they are, the ROMs untouched (R36, R210). -/
def resetRegisters (s : State) : State :=
  { s with
    len := 0
    need := 32
    status := Status.reset
    frameCnt := 0
    skipCnt := 0
    byteCnt := 0 }

/-- The window bytes after the `nth` power-on: one free value per offset; log entry 6. -/
def freeWindow (nth : Nat) : Vector Byte 32 :=
  ⟨((List.range 32).map (Config.powerOnByte nth)).toArray, by simp⟩

/-- A power-on: the same reset (R270), with window bytes that nothing constrains (R36, U3), and no response; log entry 6. -/
def powerOn (s : State) : State :=
  { resetRegisters s with
    buf := freeWindow s.powerOns
    powerOns := s.powerOns + 1 }

end Sys2Proof.Machine
end

