-- ==== Sys2Proof/Machine/Aqi.lean ====
section
/-! DEFINITION. The AQI unit (42_aqi.md): the check of the tables (R151), the five steps (R154 to R161), and the commands AQI25 and AQI10 (R164, R165). -/

namespace Sys2Proof.Machine

/-- `T[i].low` as a datum (R53). -/
def lowOf (t : Table) (i : Fin 7) : F64 := F64.ofBits t[i].low

/-- `T[i].high` as a datum (R53). -/
def highOf (t : Table) (i : Fin 7) : F64 := F64.ofBits t[i].high

/-- Bucket indices in ascending order (R6, `N_BUCKETS`). -/
def buckets : List (Fin 7) := [0, 1, 2, 3, 4, 5, 6]

/-- The conditions of R151 on one table: finite entries, `low < high` in each, `high` below the next `low`. -/
def tableWf (t : Table) : Bool :=
  buckets.all fun i =>
    (lowOf t i).isFinite && (highOf t i).isFinite && lt64 (lowOf t i) (highOf t i)
      && (if h : i.val + 1 < 7 then lt64 (highOf t i) (lowOf t ⟨i.val + 1, h⟩) else true)

/-- The block may be built with these ROM contents (R151). The two fixed bounds are compared as numbers. -/
def romWf (rom : Rom) : Bool :=
  tableWf rom.bp25 && tableWf rom.bp10 && tableWf rom.idx
    && le64 (lowOf rom.idx 0) (F64.ofBits Config.idxMin) && le64 (F64.ofBits Config.idxMin) (lowOf rom.idx 0)
    && le64 (highOf rom.idx 6) (F64.ofBits Config.idxMax) && le64 (F64.ofBits Config.idxMax) (highOf rom.idx 6)

/-- `10.0`. -/
def ten : F64 := f64OfNat 10

/-- Step 2, to one decimal: `div64(rha(mul64(c, 10.0)), 10.0)` (R155). -/
def roundTenths (c : F64) : F64 := div64 (rha (mul64 c ten)) ten

/-- Step 3: the largest `i` with `T[i].low < r`, 0 when there is none (R157). -/
def bucketOf (t : Table) (r : F64) : Fin 7 :=
  buckets.foldl (fun i j => if lt64 (lowOf t j) r then j else i) 0

/-- Step 4: `(I_high - I_low) / (C_high - C_low) * (r - C_low) + I_low`, left to right, each operation rounded (R158). -/
def interpolate (idx t : Table) (i : Fin 7) (r : F64) : F64 :=
  let dI := sub64 (highOf idx i) (lowOf idx i)
  let dC := sub64 (highOf t i) (lowOf t i)
  let q := div64 dI dC
  add64 (mul64 q (sub64 r (lowOf t i))) (lowOf idx i)

/-- Step 5: compare and select, upper bound only; a NaN passes (R159). -/
def clampTop (idx : Table) (a : F64) : F64 :=
  if gt64 a (highOf idx 6) then highOf idx 6 else a

/-- Steps 3 to 5, which read only the rounded value (R162). `+Inf`, of a `+Inf` operand or of an overflowing product, gives `IDX[6].high` (R161, D8). DESIGN CHOICE, unsafe: it does so also with tables whose last range overflows, where R160's steps alone would compute `0 * Inf` (log entry 21). -/
def indexOfRounded (idx t : Table) (r : F64) : F64 :=
  if r = .inf false then highOf idx 6 else clampTop idx (interpolate idx t (bucketOf t r) r)

/-- `aqi(T, c)` on data (R160). -/
def aqiValue (idx t : Table) (c : F64) : F64 :=
  if le64 c F64.zero then F64.zero else indexOfRounded idx t (roundTenths c)

/-- `aqi(T, c)` on bit patterns; a NaN result is `NAN_OUT` (R160, R161). -/
def aqi (rom : Rom) (t : Table) (c : Bits64) : Bits64 :=
  F64.toBits rom.nanOut (aqiValue rom.idx t (F64.ofBits c))

/-- What AQI25 and AQI10 share: the check of the immediate, then the response; nothing is written (R164, R165). -/
def aqiCommand (t : Table) (imm8 : Byte) (din64 : Bits64) (s : State) : Host.Outcome State Fault Refusal :=
  match mustBeZero imm8 with
  | some k => .next (raiseIllegal k s)
  | none   => .next (respond (okResponse ((aqi s.rom t din64).setWidth 248)) s)

/-- `AQI25` (R164). -/
def execAqi25 (imm8 : Byte) (din64 : Bits64) (s : State) : Host.Outcome State Fault Refusal :=
  aqiCommand s.rom.bp25 imm8 din64 s

/-- `AQI10` (R165). -/
def execAqi10 (imm8 : Byte) (din64 : Bits64) (s : State) : Host.Outcome State Fault Refusal :=
  aqiCommand s.rom.bp10 imm8 din64 s

end Sys2Proof.Machine
end

