-- ==== Sys2Proof/Machine/Control.lean ====
section
/-! DEFINITION. The control commands RESET and RDREG (44_control.md). -/

namespace Sys2Proof.Machine

/-- `RESET` (R210): the reset registers and a response; with a non-zero immediate nothing is reset. -/
def execReset (imm8 : Byte) (s : State) : Host.Outcome State Fault Refusal :=
  match mustBeZero imm8 with
  | some k => .next (raiseIllegal k s)
  | none   => .next (respond (okResponse 0) (resetRegisters s))

/-- `RDREG r` (R211): the register's value in the response; reading changes nothing. -/
def execRdreg (r : Byte) (s : State) : Host.Outcome State Fault Refusal :=
  match regOfNumber r with
  | none     => .next (raiseIllegal .badRegister s)
  | some reg => .next (respond (okResponse ((readReg s reg).setWidth 248)) s)

end Sys2Proof.Machine
end

