-- ==== Sys2Proof/Machine/FrameDecoder.lean ====
section
/-! DEFINITION. The frame decoder (40_frame_decoder.md R101), the packing of its answer (30_encoding.md R81), and the DECODE command (R110). -/

namespace Sys2Proof.Machine

/-- `decode(s)`, its checks in the order of R101. -/
def frameDecode (s : List Byte) : DecodeResult :=
  match s with
  | [] => .needMoreBytes Config.frameBytes
  | b0 :: rest =>
    if b0 ≠ Config.marker0 then .skip
    else match rest with
      | [] => .needMoreBytes (Config.frameBytes - 1)
      | b1 :: _ =>
        if b1 ≠ Config.marker1 then .skip
        else if s.length < Config.frameBytes then .needMoreBytes (Config.frameBytes - s.length)
        else .frame (parse (s.take Config.frameBytes))

/-- How many bytes a result consumes (R100, R108). -/
def DecodeResult.consumed : DecodeResult → Nat
  | .frame _         => Config.frameBytes
  | .skip            => 1
  | .needMoreBytes _ => 0
  | .malformedInput  => 0

/-- A DecodeResult record: tag in bits 1:0, count in bits 7:2, frame record in bits 247:8 (R81). -/
def resultRecord (tag : BitVec 2) (count : BitVec 6) (frame : BitVec 240) : BitVec 248 :=
  tag.setWidth 248 ||| count.setWidth 248 <<< 2 ||| frame.setWidth 248 <<< 8

/-- The 248-bit record of each result (R81). -/
def DecodeResult.pack : DecodeResult → BitVec 248
  | .needMoreBytes m => resultRecord 0b00 (BitVec.ofNat 6 m) 0
  | .skip            => resultRecord 0b01 1 0
  | .frame f         => resultRecord 0b10 32 f.pack
  | .malformedInput  => resultRecord 0b11 0 0

/-- `DECODE n` (R110): the answer for the first `n` bytes of `dwin`, and no effect on the stream. -/
def execDecode (n : Byte) (dwin : BitVec 256) (s : State) : Host.Outcome State Fault Refusal :=
  match lengthCheck n with
  | some k => .next (raiseIllegal k s)
  | none   => .next (respond (okResponse (frameDecode (dwinBytes n.toNat dwin)).pack) s)

end Sys2Proof.Machine
end

