-- ==== Sys2Proof/Machine/Reassembler.lean ====
section
/-! DEFINITION. The stream reassembler (43_reassembler.md): the drain (R183 to R187) and the PUSH command (R181). -/

namespace Sys2Proof.Machine

/-- What stopped a drain (R183). -/
inductive DrainStop where
  | needMoreBytes (additional : Nat)
  | malformedInput
  deriving DecidableEq, Repr

/-- What a drain does: the frames it emits in order, how many bytes it skips, the buffer it leaves, and what stopped it. -/
structure Drain where
  frames : List Frame
  skips  : Nat
  rest   : List Byte
  stop   : DrainStop
  deriving DecidableEq, Repr

/-- One more frame in front (R185). -/
def Drain.addFrame (f : Frame) (d : Drain) : Drain := { d with frames := f :: d.frames }

/-- One more skipped byte in front (R184). -/
def Drain.addSkip (d : Drain) : Drain := { d with skips := d.skips + 1 }

/-- The drain loop (R181), with a bound on its turns. Each turn that goes on shortens the buffer, so `|s| + 1` turns always suffice and the bound is never met (R183; log entry 13). -/
def drainLoop : Nat → List Byte → Drain
  | 0, s => { frames := [], skips := 0, rest := s, stop := .malformedInput }
  | turns + 1, s =>
    match frameDecode s with
    | .frame f         => (drainLoop turns (s.drop Config.frameBytes)).addFrame f
    | .skip            => (drainLoop turns (s.drop 1)).addSkip
    | .needMoreBytes m => { frames := [], skips := 0, rest := s, stop := .needMoreBytes m }
    | .malformedInput  => { frames := [], skips := 0, rest := s, stop := .malformedInput }

/-- The drain of a buffer (R183). -/
def drain (s : List Byte) : Drain := drainLoop (s.length + 1) s

/-- `NEED` after a drain: written on `NeedMoreBytes`, kept on `MalformedInput` (R186, R187). -/
def needAfter (stop : DrainStop) (need : BitVec 6) : BitVec 6 :=
  match stop with
  | .needMoreBytes m => BitVec.ofNat 6 m
  | .malformedInput  => need

/-- The drain ended on `MalformedInput` (R187). -/
def DrainStop.malformed : DrainStop → Bool
  | .needMoreBytes _ => false
  | .malformedInput  => true

/-- The data of a PUSH response: `frames | (skips << 1) | (mal << 3)` (R181, R80). -/
def pushData (d : Drain) : BitVec 248 :=
  BitVec.ofNat 248 d.frames.length ||| BitVec.ofNat 248 d.skips <<< 1
    ||| (BitVec.ofBool d.stop.malformed).setWidth 248 <<< 3

/-- Everything a PUSH does once its drain is known (R181). The frames go out before the response (R42). -/
def finishPush (d : Drain) (s : State) : State :=
  let s1 := storeRemainder d.rest (emitAll d.frames s)
  let s2 := countPush d.frames.length d.skips s1
  let s3 := { s2 with
    need := needAfter d.stop s.need
    status := s.status.recordPush d.frames.length d.skips d.stop.malformed }
  respond (okResponse (pushData d)) s3

/-- `PUSH b` (R181): append at offset LEN (R182), drain, keep the rest. The append needs an offset inside the window, which R24 and R25 say it always has; log entry 9. -/
def execPush (b : Byte) (s : State) : Host.Outcome State Fault Refusal :=
  if s.len.toNat < Config.bufBytes then .next (finishPush (drain (remainder s ++ [b])) s)
  else .fault .appendBeyondWindow

end Sys2Proof.Machine
end

