-- ==== Sys2Proof/Machine/Dispatch.lean ====
section
/-! DEFINITION. One arm per command: each a direct call of its meaning. -/

namespace Sys2Proof.Machine

def exec (i : Instr) (s : State) : Host.Outcome State Fault Refusal :=
  match i with
  | .reset imm8 => Sys2Proof.Machine.execReset imm8 s
  | .push b => Sys2Proof.Machine.execPush b s
  | .decode n dwin => Sys2Proof.Machine.execDecode n dwin s
  | .rdreg r => Sys2Proof.Machine.execRdreg r s
  | .aqi25 imm8 din64 => Sys2Proof.Machine.execAqi25 imm8 din64 s
  | .aqi10 imm8 din64 => Sys2Proof.Machine.execAqi10 imm8 din64 s

end Sys2Proof.Machine
end

