-- ==== Sys2Proof/Machine/Transaction.lean ====
section
/-! DEFINITION. What the block does with the next thing at its command port (10_state.md R39, R43; 70_reset_and_hazards.md R270, R271). -/

namespace Sys2Proof.Machine

/-- One command: the opcode is checked first (R235), then the command runs. -/
def runCommand (c : Command) (s : State) : Host.Outcome State Fault Refusal :=
  match decodeCommand c with
  | .ok i    => exec i s
  | .error k => .next (raiseIllegal k s)

/-- One input: a command or a power-on (R270). -/
def runInput (x : Input) (s : State) : Host.Outcome State Fault Refusal :=
  match x with
  | .command c => runCommand c s
  | .powerOn   => .next (powerOn s)

/-- The configuration check: with tables that break R151 the block cannot have been built and has no step; log entry 8. -/
def whenBuilt (rom : Rom) (outcome : Host.Outcome State Fault Refusal) : Host.Outcome State Fault Refusal :=
  if romWf rom then outcome else .refused .illFormedTables

/-- Take the oldest input and perform it. With none pending the block waits and nothing changes (R271, R192); log entry 2. -/
def takeInput (s : State) : Host.Outcome State Fault Refusal :=
  match s.inputs with
  | []      => whenBuilt s.rom (.next s)
  | x :: xs => whenBuilt s.rom (runInput x { s with inputs := xs })

end Sys2Proof.Machine
end

