-- ==== Sys2Proof/Machine/Step.lean ====
section
/-! DEFINITION. The step, and how a command word is placed at the command port for it. -/

namespace Sys2Proof.Machine

/-- One step: one command, whole (20_memory.md R61). -/
def step (s : State) : Host.Outcome State Fault Refusal := Sys2Proof.Machine.takeInput s

/-- The same state with one command in front of the command port's queue: the `nbits` bits of the word `w`, both operand ports 0; log entry 3. The block fetches nothing (R21): this stands for the host issuing the command. -/
def State.withFetchWord (s : State) (nbits w : Nat) : State :=
  { s with inputs := .command { cmd := (BitVec.ofNat nbits w).setWidth 16, din64 := 0, dwin := 0 } :: s.inputs }

end Sys2Proof.Machine
end

