-- ==== Sys2Proof/Machine/Platform.lean ====
section
/-! DEFINITION. A platform of block instances (00_scope.md R8; 60_exceptions.md R244): each has a state and ports of its own. -/

namespace Sys2Proof.Machine

/-- The instances of a platform (R8). DESIGN CHOICE, safe: each holds the ROMs it was built with, and two may hold different ones, which no rule settles (log entry 22). -/
abbrev Platform := List State

/-- Instance `k` takes one step; the order in which instances step is the host's (R244). A platform without that instance is left as it is. -/
def stepInstance (k : Nat) (p : Platform) : Host.Outcome Platform Fault Refusal :=
  match p[k]? with
  | none   => .next p
  | some s =>
    match step s with
    | .next t    => .next (p.set k t)
    | .fault r   => .fault r
    | .refused r => .refused r

end Sys2Proof.Machine
end

