-- ==== Sys2Proof/Machine/Assembler.lean ====
section
/-! DEFINITION. The assembler's lines and the pseudo-commands (30_encoding.md R84, R85, R86), and the chunk contract that PROCESS renders (43_reassembler.md R190). -/

namespace Sys2Proof.Machine

/-- A decimal literal: `digits * 10 ^ exp10`, negated if `neg` (R84). -/
structure Decimal where
  neg    : Bool
  digits : Nat
  exp10  : Int
  deriving DecidableEq, Repr

/-- `f64(d)` of a decimal literal (R12). -/
def f64OfDecimal (d : Decimal) : F64 :=
  f64OfRat d.neg (d.digits * 10 ^ d.exp10.toNat) (10 ^ (-d.exp10).toNat)

/-- The name or number that RDREG is written with (R84). -/
inductive RegName where
  | status
  | len
  | need
  | frameCnt
  | skipCnt
  | byteCnt
  | buf (i : Fin 32)
  | number (r : Byte)
  deriving DecidableEq, Repr

/-- The number of a register name (R32). -/
def regNumber : RegName → Byte
  | .status   => 0x00
  | .len      => 0x01
  | .need     => 0x02
  | .frameCnt => 0x03
  | .skipCnt  => 0x04
  | .byteCnt  => 0x05
  | .buf i    => BitVec.ofNat 8 (0x20 + i.val)
  | .number r => r

/-- One line of assembler text (R84) or a pseudo-command (R85, R86). The characters of the text are not modelled; log entry 14. -/
inductive Line where
  | reset
  | push (b : Byte)
  /-- `DECODE n, [b0 ... b(n-1)]`. -/
  | decode (bytes : List Byte)
  | rdreg (name : RegName)
  /-- `AQI25 d` with a decimal literal. -/
  | aqi25 (d : Decimal)
  | aqi10 (d : Decimal)
  /-- `AQI25 #0x...` with a bit pattern. -/
  | aqi25Bits (x : Bits64)
  | aqi10Bits (x : Bits64)
  /-- `.word 0xHHHH`. -/
  | word (w : BitVec 16)
  /-- `PROCESS [c0 ... c(k-1)]`. -/
  | process (chunk : List Byte)
  /-- `AQI25U v`. -/
  | aqi25U (v : U16)
  | aqi10U (v : U16)
  deriving DecidableEq, Repr

/-- Byte `i` at `dwin[8i+7:8i]`, the other bytes 0 (R84). -/
def dwinOf (bytes : List Byte) : BitVec 256 :=
  bytes.foldr (fun b acc => acc <<< 8 ||| b.setWidth 256) 0

/-- The commands of a line (R84 to R86). The NaN pattern of `toBits` is never used: `f64` of a decimal is no NaN. DESIGN CHOICE, safe: a DECODE line with more than 32 bytes, which R84 does not give, has the number of its bytes modulo 256 as `imm8` and its first 32 bytes on the port (log entry 20). -/
def assemble : Line → List Command
  | .reset         => [encode (.reset 0)]
  | .push b        => [encode (.push b)]
  | .decode bytes  => [encode (.decode (BitVec.ofNat 8 bytes.length) (dwinOf bytes))]
  | .rdreg name    => [encode (.rdreg (regNumber name))]
  | .aqi25 d       => [encode (.aqi25 0 ((f64OfDecimal d).toBits Config.nanOut))]
  | .aqi10 d       => [encode (.aqi10 0 ((f64OfDecimal d).toBits Config.nanOut))]
  | .aqi25Bits x   => [encode (.aqi25 0 x)]
  | .aqi10Bits x   => [encode (.aqi10 0 x)]
  | .word w        => [{ cmd := w, din64 := 0, dwin := 0 }]
  | .process chunk => chunk.map fun c => encode (.push c)
  | .aqi25U v      => [encode (.aqi25 0 ((f64OfNat v.toNat).toBits Config.nanOut))]
  | .aqi10U v      => [encode (.aqi10 0 ((f64OfNat v.toNat).toBits Config.nanOut))]

/-- A program: its lines in order (R84), as the host issues them. -/
def assembleAll (lines : List Line) : List Input := (lines.flatMap assemble).map .command

/-- The source's `process(new_bytes, sink)` (R190): append the whole chunk to the remainder, then drain once. -/
def processChunk (rem chunk : List Byte) : Drain := drain (rem ++ chunk)

end Sys2Proof.Machine
end

