-- ==== Sys2Proof/Safety.lean ====
section
/-! DEFINITION. The terms claims are stated in: what has been delivered, the invariants between commands (10_state.md R25, R26, R27, R31), the cause of an illegal word as the tables of 30_encoding.md R79 and 60_exceptions.md R231 give it, and runs. -/

namespace Sys2Proof.Machine

/-- The frame records delivered on the sink port, in order (R42). -/
def sinkOf (s : State) : List (BitVec 240) :=
  s.trace.filterMap fun
    | .frame record => some record
    | .response _   => none

/-- The responses returned, in order (R41). -/
def responsesOf (s : State) : List Response :=
  s.trace.filterMap fun
    | .frame _    => none
    | .response r => some r

/-- The three shapes of the remainder between commands (R25). -/
abbrev windowShape (s : State) : Prop :=
  s.len.toNat = 0
    ∨ (s.len.toNat = 1 ∧ s.buf[0] = 0x42#8)
    ∨ (2 ≤ s.len.toNat ∧ s.len.toNat ≤ 31 ∧ s.buf[0] = 0x42#8 ∧ s.buf[1] = 0x4D#8)

/-- `NEED = 32 - LEN` between commands (R26). -/
abbrev needMatches (s : State) : Prop := s.need.toNat + s.len.toNat = 32

/-- Every byte is accounted for, modulo 2^32 (R31). -/
abbrev accounted (s : State) : Prop :=
  s.byteCnt = 32 * s.frameCnt + s.skipCnt + s.len.setWidth 32

/-- What the fields of STATUS can be (R27, R188): MAL never 1, SKP never 3, a PUSH never both emits and skips, ILLC a raised cause, and 0 exactly while ILL is 0. -/
abbrev statusLegal (st : Status) : Prop :=
  st.mal = false ∧ st.skp ≠ 3 ∧ (st.frm = true → st.skp = 0) ∧ st.illc.toNat ≤ 4 ∧ (st.ill = true ↔ st.illc ≠ 0)

/-- The invariant between commands of a block built with a well-formed table set. -/
abbrev State.Inv (s : State) : Prop :=
  romWf s.rom = true ∧ windowShape s ∧ needMatches s ∧ accounted s ∧ statusLegal s.status

/-- The cause code of the opcode and immediate of a command word, none where they are legal, read off R79 and R231 in the order of R235. -/
def fieldsCauseCode (op imm8 : Nat) : Option (BitVec 3) :=
  if op = 0x01 ∨ op = 0x10 ∨ op = 0x11 then (if imm8 = 0 then none else some 2)
  else if op = 0x02 then none
  else if op = 0x03 then (if imm8 ≤ 32 then none else some 4)
  else if op = 0x04 then
    (if imm8 ≤ 0x05 ∨ (0x20 ≤ imm8 ∧ imm8 ≤ 0x3F) then none else some 3)
  else some 1

/-- The cause code of a command word: `cmd[15:8]` and `cmd[7:0]` (R75). -/
def wordCauseCode (w : BitVec 16) : Option (BitVec 3) :=
  fieldsCauseCode (w.extractLsb' 8 8).toNat (w.extractLsb' 0 8).toNat

/-- The magnitude, in units of `2 ^ -1074`, of some finite binary64 datum. -/
def isDatumMag (mag : Nat) : Prop := ∃ b : Bits64, F64.ofBits b = .fin false mag

/-- `x` is the exact value `num / den`, in units of `2 ^ -1074` and negated if `neg`, rounded to binary64 (R12): infinity from the midpoint above the largest finite datum on, and below it the datum that no other is nearer to, whose last place is even if another is as near. -/
def isRounded (neg : Bool) (num den : Nat) (x : F64) : Prop :=
  ((2 ^ 54 - 1) * 2 ^ 2044 * den ≤ num → x = .inf neg) ∧
  (num < (2 ^ 54 - 1) * 2 ^ 2044 * den →
    ∃ mag : Nat, x = .fin neg mag ∧ isDatumMag mag ∧
      ∀ other : Nat, isDatumMag other → other ≠ mag →
        let err := ((num : Int) - mag * den).natAbs
        let errOther := ((num : Int) - other * den).natAbs
        err < errOther ∨ (err = errOther ∧ mag / 2 ^ (mag.log2 - 52) % 2 = 0))

/-- `n` steps, stopping at the first fault or refusal. -/
def runSteps : Nat → State → Host.Outcome State Fault Refusal
  | 0, s => .next s
  | n + 1, s =>
    match step s with
    | .next t    => runSteps n t
    | .fault r   => .fault r
    | .refused r => .refused r

/-- The source's `process` called on one chunk after another (R190, R191): all frames in order, all skips, and the final remainder. -/
def processChunks (rem : List Byte) : List (List Byte) → List Frame × Nat × List Byte
  | [] => ([], 0, rem)
  | chunk :: chunks =>
    let d := processChunk rem chunk
    let later := processChunks d.rest chunks
    (d.frames ++ later.1, d.skips + later.2.1, later.2.2)

end Sys2Proof.Machine
end

