-- ==== Sys2Proof/Certificates/Slice0/Obligations.lean ====
section
/-! DEFINITION. The statements for the provers. Each docstring names the rules of spec/ it formalises. -/

open Sys2Proof Sys2Proof.Machine

/-! ### Encodings -/

/-- R75, R77, R84: the encoding of a command, with its operand port values, decodes to that command, at every operand value. -/
def Obligations.EncodedCommandDecodes : Prop :=
  ∀ i : Instr, decodeCommand (encode i) = .ok i

/-- R75, R76: a command that decodes is encoded by the word it came from, and took its port operand from the port it is listed for. -/
def Obligations.DecodedCommandEncodes : Prop :=
  ∀ (c : Command) (i : Instr), decodeCommand c = .ok i →
    (encode i).cmd = c.cmd ∧
    (match i with
     | .decode _ x => x = c.dwin
     | .aqi25 _ x  => x = c.din64
     | .aqi10 _ x  => x = c.din64
     | .reset _    => True
     | .push _     => True
     | .rdreg _    => True)

/-- R77: each opcode of the map names its command, and every other opcode is rejected. -/
def Obligations.OpcodeMap : Prop :=
  ∀ (op imm8 : Byte) (x : Bits64) (v : BitVec 256),
    decodeCommand ⟨0x01#8 ++ imm8, x, v⟩ = .ok (.reset imm8) ∧
    decodeCommand ⟨0x02#8 ++ imm8, x, v⟩ = .ok (.push imm8) ∧
    decodeCommand ⟨0x03#8 ++ imm8, x, v⟩ = .ok (.decode imm8 v) ∧
    decodeCommand ⟨0x04#8 ++ imm8, x, v⟩ = .ok (.rdreg imm8) ∧
    decodeCommand ⟨0x10#8 ++ imm8, x, v⟩ = .ok (.aqi25 imm8 x) ∧
    decodeCommand ⟨0x11#8 ++ imm8, x, v⟩ = .ok (.aqi10 imm8 x) ∧
    (op ∉ [0x01#8, 0x02#8, 0x03#8, 0x04#8, 0x10#8, 0x11#8] →
      decodeCommand ⟨op ++ imm8, x, v⟩ = .error .unknownOpcode)

/-- R77, R78, 95_test_vectors.md: words written out in the spec decode to the commands they stand for. -/
def Obligations.SpecWordsDecode : Prop :=
  decodeTableWord 16 0x0100 = some (.reset 0) ∧
  decodeTableWord 16 0x0261 = some (.push 0x61) ∧
  decodeTableWord 16 0x0320 = some (.decode 32 0) ∧
  decodeTableWord 16 0x043F = some (.rdreg 0x3F) ∧
  decodeTableWord 16 0x1000 = some (.aqi25 0 0) ∧
  decodeTableWord 16 0x1100 = some (.aqi10 0 0) ∧
  decodeTableWord 16 0x0542 = none

/-- R79: the commands with a legal immediate are exactly those whose word has no cause. -/
def Obligations.WellFormedIffNoCause : Prop :=
  ∀ i : Instr, i.wf = true ↔ wordCauseCode (encode i).cmd = none

/-! ### The step -/

/-- R65, R61: a step performs the oldest command, taken off the port's queue, as exec does; nothing else happens around it. -/
def Obligations.StepRunsDecodedCommand : Prop :=
  ∀ (s : State) (c : Command) (rest : List Input) (i : Instr),
    romWf s.rom = true → s.inputs = .command c :: rest → decodeCommand c = .ok i →
    step s = exec i { s with inputs := rest }

/-- R233 with R231, R235: an illegal command word sets ILL, records its cause in ILLC, answers `{0, cause, 0}`, and nothing else changes. -/
def Obligations.IllegalWordRaises : Prop :=
  ∀ (s : State) (c : Command) (rest : List Input) (k : BitVec 3),
    romWf s.rom = true → s.inputs = .command c :: rest → wordCauseCode c.cmd = some k →
    step s = .next { s with
      inputs := rest
      status := { s.status with ill := true, illc := k }
      trace := s.trace ++ [.response { ok := false, cause := k, data := 0 }] }

/-- R80, R41, R42: a legal command word, with room in the window, completes with exactly one response, `ok`, after any frames. -/
def Obligations.LegalWordAnswersOk : Prop :=
  ∀ (s : State) (c : Command) (rest : List Input),
    romWf s.rom = true → s.inputs = .command c :: rest → s.len.toNat < 32 → wordCauseCode c.cmd = none →
    ∃ (t : State) (fs : List Frame) (data : BitVec 248),
      step s = .next t ∧ t.inputs = rest ∧
      t.trace = s.trace ++ fs.map (fun f => .frame f.pack) ++ [.response { ok := true, cause := 0, data := data }]

/-- R271, R192: with nothing at the command port a step changes nothing. -/
def Obligations.IdleStepChangesNothing : Prop :=
  ∀ s : State, romWf s.rom = true → s.inputs = [] → step s = .next s

/-- R270, R36: after a power-on every register has its reset value, every window byte reads 0 through RDREG, the ROMs are unchanged and nothing is delivered. The window bytes themselves are free (log entry 6). -/
def Obligations.PowerOnResets : Prop :=
  ∀ (s : State) (rest : List Input), romWf s.rom = true → s.inputs = .powerOn :: rest →
    ∃ t : State, step s = .next t ∧ t.len = 0 ∧ t.need = 32 ∧ t.status.word = 0 ∧
      t.frameCnt = 0 ∧ t.skipCnt = 0 ∧ t.byteCnt = 0 ∧ t.rom = s.rom ∧ t.inputs = rest ∧ t.trace = s.trace ∧
      ∀ i : Fin 32, readReg t (.buf i) = 0

/-- R151: a table set that breaks the conditions is refused, whatever is asked of the block. -/
def Obligations.IllFormedTablesRefused : Prop :=
  ∀ s : State, romWf s.rom = false → step s = .refused .illFormedTables

/-- R151 spelled out: the configuration check accepts exactly the table sets whose entries are finite and ascend as the rule says, with the two fixed bounds. That the bounds are compared as numbers, so that -0.0 is a lowest bound of 0, is the model's choice (log entry 8). -/
def Obligations.ConfigurationCheck : Prop :=
  ∀ rom : Rom, romWf rom = true ↔
    (∀ t ∈ [rom.bp25, rom.bp10, rom.idx], ∀ i : Fin 7,
      (F64.ofBits t[i].low).isFinite = true ∧ (F64.ofBits t[i].high).isFinite = true ∧
      lt64 (F64.ofBits t[i].low) (F64.ofBits t[i].high) = true ∧
      ∀ j : Fin 7, j.val = i.val + 1 → lt64 (F64.ofBits t[i].high) (F64.ofBits t[j].low) = true) ∧
    (∃ z, F64.ofBits rom.idx[0].low = .fin z 0) ∧
    F64.ofBits rom.idx[6].high = .fin false (500 * 2 ^ 1074)

/-- R36, R270: the reset values, in the state the block starts from and after each of the two sources of reset, which leave the ROMs as they are. -/
def Obligations.ResetValues : Prop :=
  let values (t : State) : Prop :=
    t.len = 0 ∧ t.need = 32 ∧ t.status.word = 0x00000000 ∧ t.frameCnt = 0 ∧ t.skipCnt = 0 ∧ t.byteCnt = 0 ∧
    ∀ i : Fin 32, readReg t (.buf i) = 0
  values State.reset ∧
  ∀ s : State,
    (∃ t, exec (.reset 0) s = .next t ∧ values t ∧ t.rom = s.rom) ∧
    (∃ t, runInput .powerOn s = .next t ∧ values t ∧ t.rom = s.rom)

/-! ### RESET and RDREG -/

/-- R210: a legal RESET writes exactly the reset registers and answers `{1, 0, 0}`; with a non-zero immediate nothing is reset and cause 2 is raised. -/
def Obligations.ResetCommand : Prop :=
  ∀ (s : State) (imm8 : Byte),
    exec (.reset 0) s = .next { s with
      len := 0
      need := 32
      status := { ill := false, mal := false, frm := false, skp := 0, illc := 0 }
      frameCnt := 0
      skipCnt := 0
      byteCnt := 0
      trace := s.trace ++ [.response { ok := true, cause := 0, data := 0 }] } ∧
    (imm8 ≠ 0#8 → exec (.reset imm8) s = .next { s with
      status := { s.status with ill := true, illc := 2 }
      trace := s.trace ++ [.response { ok := false, cause := 2, data := 0 }] })

/-- R211, R32, R33: RDREG answers the register its number names, zero-extended, a window byte at or beyond LEN as 0; an unassigned number raises cause 3; nothing else changes. -/
def Obligations.RdregCommand : Prop :=
  ∀ (s : State) (r : Byte),
    let answers (v : U32) : Prop :=
      exec (.rdreg r) s =
        .next { s with trace := s.trace ++ [.response { ok := true, cause := 0, data := v.setWidth 248 }] }
    if r = 0x00 then answers s.status.word
    else if r = 0x01 then answers (s.len.setWidth 32)
    else if r = 0x02 then answers (s.need.setWidth 32)
    else if r = 0x03 then answers s.frameCnt
    else if r = 0x04 then answers s.skipCnt
    else if r = 0x05 then answers s.byteCnt
    else if h : 0x20 ≤ r.toNat ∧ r.toNat ≤ 0x3F then
      answers (if r.toNat - 0x20 < s.len.toNat then (s.buf[r.toNat - 0x20]'(by omega)).setWidth 32 else 0)
    else exec (.rdreg r) s = .next { s with
      status := { s.status with ill := true, illc := 3 }
      trace := s.trace ++ [.response { ok := false, cause := 3, data := 0 }] }

/-- R27: the bits of STATUS as RDREG reads it, in every state; bits 31:8 read 0. -/
def Obligations.StatusWordBits : Prop :=
  ∀ st : Status,
    st.word.getLsbD 0 = st.ill ∧ st.word.getLsbD 1 = st.mal ∧ st.word.getLsbD 2 = st.frm ∧
    st.word.extractLsb' 3 2 = st.skp ∧ st.word.extractLsb' 5 3 = st.illc ∧ st.word.extractLsb' 8 24 = 0

/-! ### The frame decoder and the deserializer -/

/-- R101, with R102 to R106: the classification, each case in the order of its checks. -/
def Obligations.DecodeClassifies : Prop :=
  frameDecode [] = .needMoreBytes 32 ∧
  ∀ (b0 b1 : Byte) (t : List Byte),
    (b0 ≠ 0x42#8 → frameDecode (b0 :: t) = .skip) ∧
    frameDecode [0x42#8] = .needMoreBytes 31 ∧
    (b1 ≠ 0x4D#8 → frameDecode (0x42#8 :: b1 :: t) = .skip) ∧
    (t.length + 2 < 32 → frameDecode (0x42#8 :: 0x4D#8 :: t) = .needMoreBytes (32 - (t.length + 2))) ∧
    (32 ≤ t.length + 2 →
      frameDecode (0x42#8 :: 0x4D#8 :: t) = .frame (parse (0x42#8 :: 0x4D#8 :: t.take 30)))

/-- R107, R108: no input gives MalformedInput, a result never consumes more than the buffer holds, and only the first 32 bytes matter. -/
def Obligations.DecodeBounds : Prop :=
  ∀ s : List Byte,
    frameDecode s ≠ .malformedInput ∧ (frameDecode s).consumed ≤ s.length ∧
    (32 ≤ s.length → frameDecode s = frameDecode (s.take 32))

/-- R109: a Skip or a Frame, once decided, is not changed by later bytes; a buffer that begins with the marker needs that many bytes fewer, until its first 32 bytes are a frame. -/
def Obligations.DecodePrefixStable : Prop :=
  ∀ s t : List Byte,
    (frameDecode s = .skip → frameDecode (s ++ t) = .skip) ∧
    (∀ f, frameDecode s = .frame f → frameDecode (s ++ t) = .frame f) ∧
    (∀ m, frameDecode s = .needMoreBytes m → 2 ≤ s.length →
      (t.length < m → frameDecode (s ++ t) = .needMoreBytes (m - t.length)) ∧
      (m ≤ t.length → frameDecode (s ++ t) = .frame (parse ((s ++ t).take 32))))

/-- R120: `be16` is `hi * 256 + lo`, with `hi` in bits 15:8 and `lo` in bits 7:0. -/
def Obligations.BigEndianRead : Prop :=
  ∀ hi lo : Byte,
    (be16 hi lo).toNat = hi.toNat * 256 + lo.toNat ∧
    (be16 hi lo).extractLsb' 8 8 = hi ∧ (be16 hi lo).extractLsb' 0 8 = lo

/-- R121, R71: field `k` of a parsed frame is the big-endian value of the bytes at offsets `2+2k` and `3+2k`, under the name that R71 gives it. -/
def Obligations.ParsedFieldsInOrder : Prop :=
  ∀ w : Vector Byte 32,
    let f := parse w.toList
    f.frameLength = be16 w[2] w[3] ∧ f.pm1Cf1 = be16 w[4] w[5] ∧ f.pm25Cf1 = be16 w[6] w[7] ∧
    f.pm10Cf1 = be16 w[8] w[9] ∧ f.pm1Atmo = be16 w[10] w[11] ∧ f.pm25Atmo = be16 w[12] w[13] ∧
    f.pm10Atmo = be16 w[14] w[15] ∧ f.pm03Count = be16 w[16] w[17] ∧ f.pm05Count = be16 w[18] w[19] ∧
    f.pm1Count = be16 w[20] w[21] ∧ f.pm25Count = be16 w[22] w[23] ∧ f.pm5Count = be16 w[24] w[25] ∧
    f.pm10Count = be16 w[26] w[27] ∧ f.reserved = be16 w[28] w[29] ∧ f.checksum = be16 w[30] w[31]

/-- R82: field `k` of a frame record stands at bits `16k+15:16k`. -/
def Obligations.FrameRecordLanes : Prop :=
  ∀ (f : Frame) (k : Fin 15), f.fields[k.val]? = some (f.pack.extractLsb' (16 * k.val) 16)

/-- R81: tag, count and frame of a packed DecodeResult, for all four results; the fourth is never produced. -/
def Obligations.DecodeResultRecord : Prop :=
  (∀ m : Nat, 1 ≤ m → m ≤ 32 →
    (DecodeResult.needMoreBytes m).pack.extractLsb' 0 2 = 0b00 ∧
    ((DecodeResult.needMoreBytes m).pack.extractLsb' 2 6).toNat = m ∧
    (DecodeResult.needMoreBytes m).pack.extractLsb' 8 240 = 0) ∧
  (DecodeResult.skip.pack.extractLsb' 0 2 = 0b01 ∧ DecodeResult.skip.pack.extractLsb' 2 6 = 1 ∧
    DecodeResult.skip.pack.extractLsb' 8 240 = 0) ∧
  (∀ f : Frame,
    (DecodeResult.frame f).pack.extractLsb' 0 2 = 0b10 ∧ (DecodeResult.frame f).pack.extractLsb' 2 6 = 32 ∧
    (DecodeResult.frame f).pack.extractLsb' 8 240 = f.pack) ∧
  (DecodeResult.malformedInput.pack.extractLsb' 0 2 = 0b11 ∧
    DecodeResult.malformedInput.pack.extractLsb' 2 6 = 0 ∧
    DecodeResult.malformedInput.pack.extractLsb' 8 240 = 0) ∧
  (∀ s : List Byte, frameDecode s ≠ .malformedInput)

/-- R140: `enc(f)` is 32 bytes and decodes to `f`, whatever follows it (R108). -/
def Obligations.EncodedFrameDecodes : Prop :=
  ∀ (f : Frame) (t : List Byte), (enc f).length = 32 ∧ frameDecode (enc f ++ t) = .frame f

/-- R110: DECODE answers the packed result for the first `n` bytes of the port and changes nothing else; a length above 32 raises cause 4. -/
def Obligations.DecodeCommand : Prop :=
  ∀ (s : State) (n : Byte) (dwin : BitVec 256),
    (n.toNat ≤ 32 → exec (.decode n dwin) s = .next { s with
      trace := s.trace ++ [.response { ok := true, cause := 0, data :=
        (frameDecode ((List.range n.toNat).map fun i => dwin.extractLsb' (8 * i) 8)).pack }] }) ∧
    (32 < n.toNat → exec (.decode n dwin) s = .next { s with
      status := { s.status with ill := true, illc := 4 }
      trace := s.trace ++ [.response { ok := false, cause := 4, data := 0 }] })

/-- R84, R76: the port value of a written DECODE line holds its bytes at their offsets and 0 beyond. -/
def Obligations.WrittenWindowReadsBack : Prop :=
  ∀ bytes : List Byte, bytes.length ≤ 32 →
    dwinBytes bytes.length (dwinOf bytes) = bytes ∧
    ∀ i, bytes.length ≤ i → i < 32 → dwinByte (dwinOf bytes) i = 0

/-- R140, R110, R82: end to end, a DECODE of the 32 wire bytes of any frame answers tag Frame, count 32, and each field of that frame in its lane. -/
def Obligations.DecodeCommandReturnsFrame : Prop :=
  ∀ (s : State) (f : Frame),
    ∃ data : BitVec 248,
      exec (.decode 32 (dwinOf (enc f))) s =
        .next { s with trace := s.trace ++ [.response { ok := true, cause := 0, data := data }] } ∧
      data.extractLsb' 0 8 = 0x82 ∧
      ∀ k : Fin 15, f.fields[k.val]? = some (data.extractLsb' (8 + 16 * k.val) 16)

/-! ### The reassembler -/

/-- R183 to R186: a drain is the loop of decoder evaluations: a Frame is emitted and its 32 bytes dropped, a Skip drops one byte, NeedMoreBytes keeps the buffer. -/
def Obligations.DrainFollowsDecoder : Prop :=
  ∀ s : List Byte,
    (∀ f, frameDecode s = .frame f →
      (drain s).frames = f :: (drain (s.drop 32)).frames ∧ (drain s).skips = (drain (s.drop 32)).skips ∧
      (drain s).rest = (drain (s.drop 32)).rest ∧ (drain s).stop = (drain (s.drop 32)).stop) ∧
    (frameDecode s = .skip →
      (drain s).frames = (drain (s.drop 1)).frames ∧ (drain s).skips = (drain (s.drop 1)).skips + 1 ∧
      (drain s).rest = (drain (s.drop 1)).rest ∧ (drain s).stop = (drain (s.drop 1)).stop) ∧
    (∀ m, frameDecode s = .needMoreBytes m →
      (drain s).frames = [] ∧ (drain s).skips = 0 ∧ (drain s).rest = s ∧ (drain s).stop = .needMoreBytes m)

/-- R183, R186, R26: every drain ends on NeedMoreBytes, with the count `32 - |rest|`, on a buffer the decoder answers so. -/
def Obligations.DrainEndsNeedingMore : Prop :=
  ∀ s : List Byte,
    (drain s).rest.length < 32 ∧ (drain s).stop = .needMoreBytes (32 - (drain s).rest.length) ∧
    frameDecode (drain s).rest = .needMoreBytes (32 - (drain s).rest.length)

/-- R194: in every drain each byte is in exactly one place: a frame, the skip count, or the rest. -/
def Obligations.DrainAccountsForBytes : Prop :=
  ∀ s : List Byte, s.length = 32 * (drain s).frames.length + (drain s).skips + (drain s).rest.length

/-- R181: PUSH appends the byte, drains, keeps the rest as the remainder, counts modulo 2^32, writes NEED, FRM and SKP, and delivers the records of the frames (R82) before its response. What FRM, SKP and the response data are from a remainder that is none of R25's, where a drain can skip more than two bytes, is the model's choice (log entry 10). -/
def Obligations.PushCommand : Prop :=
  ∀ (s : State) (b : Byte), s.len.toNat < 32 →
    let d := drain (remainder s ++ [b])
    let data := BitVec.ofNat 248 d.frames.length ||| BitVec.ofNat 248 d.skips <<< 1
    ∃ t : State, exec (.push b) s = .next t ∧
      remainder t = d.rest ∧ t.len.toNat = d.rest.length ∧ t.need.toNat = 32 - d.rest.length ∧
      t.byteCnt = s.byteCnt + 1 ∧
      t.frameCnt = s.frameCnt + BitVec.ofNat 32 d.frames.length ∧
      t.skipCnt = s.skipCnt + BitVec.ofNat 32 d.skips ∧
      t.status.frm = decide (d.frames ≠ []) ∧ t.status.skp = BitVec.ofNat 2 d.skips ∧
      t.trace = s.trace ++ d.frames.map (fun f => .frame f.pack) ++ [.response { ok := true, cause := 0, data := data }]

/-- R181, R27, R34: what a PUSH leaves alone: ILL, ILLC and MAL, the ROMs, the inputs, and the window bytes at and beyond the new LEN (the last by the model's reading, log entry 5). -/
def Obligations.PushFrame : Prop :=
  ∀ (s t : State) (b : Byte), exec (.push b) s = .next t →
    t.status.ill = s.status.ill ∧ t.status.illc = s.status.illc ∧ t.status.mal = s.status.mal ∧
    t.rom = s.rom ∧ t.inputs = s.inputs ∧ t.powerOns = s.powerOns ∧
    ∀ i : Fin 32, t.len.toNat ≤ i.val → t.buf[i] = s.buf[i]

/-- Log entry 9, from R24 and R182: with LEN at 32 or more there is no byte to append to, and the PUSH stops by name. -/
def Obligations.PushBeyondWindowFaults : Prop :=
  ∀ (s : State) (b : Byte), 32 ≤ s.len.toNat → exec (.push b) s = .fault .appendBeyondWindow

/-- R188, the seven rows: from each shape of the remainder, what one PUSH leaves, needs and delivers. -/
def Obligations.PushTransitions : Prop :=
  ∀ (s : State) (b : Byte), windowShape s →
    let gives (rest : List Byte) (outs : List Frame) (data : BitVec 248) : Prop :=
      ∃ t : State, exec (.push b) s = .next t ∧ remainder t = rest ∧ t.need.toNat = 32 - rest.length ∧
        t.trace = s.trace ++ outs.map (fun f => .frame f.pack) ++ [.response { ok := true, cause := 0, data := data }]
    if s.len.toNat = 0 then
      if b = 0x42#8 then gives [0x42#8] [] 0 else gives [] [] 2
    else if s.len.toNat = 1 then
      if b = 0x4D#8 then gives [0x42#8, 0x4D#8] [] 0
      else if b = 0x42#8 then gives [0x42#8] [] 2
      else gives [] [] 4
    else if s.len.toNat ≤ 30 then gives (remainder s ++ [b]) [] 0
    else gives [] [parse (remainder s ++ [b])] 1

/-- R188: from a remainder of R25 a PUSH emits at most one frame, skips at most two bytes, never both, and three decoder evaluations are enough. -/
def Obligations.PushWorkBounded : Prop :=
  ∀ (s : State) (b : Byte), windowShape s →
    let d := drain (remainder s ++ [b])
    d.frames.length ≤ 1 ∧ d.skips ≤ 2 ∧ (d.frames = [] ∨ d.skips = 0) ∧ drainLoop 3 (remainder s ++ [b]) = d

/-- R191: however a stream is cut into chunks, PROCESS chunk by chunk issues the commands of one PROCESS of the whole stream, and the source's `process` gives the same frames, skips and remainder. The spec marks both as inferences. -/
def Obligations.FragmentationInvariance : Prop :=
  ∀ (rem : List Byte) (chunks : List (List Byte)),
    assembleAll (chunks.map .process) = assembleAll [.process chunks.flatten] ∧
    ((∃ m, frameDecode rem = .needMoreBytes m) →
      let d := processChunk rem chunks.flatten
      processChunks rem chunks = (d.frames, d.skips, d.rest))

/-- R190: PROCESS, one PUSH per byte, does what the source's `process` does with the whole chunk: the same frames in the same order, the same remainder and the same totals. -/
def Obligations.ProcessIsChunkProcess : Prop :=
  ∀ (s : State) (chunk : List Byte) (later : List Input), s.Inv →
    s.inputs = assembleAll [.process chunk] ++ later →
    let d := processChunk (remainder s) chunk
    ∃ t : State, runSteps chunk.length s = .next t ∧ t.inputs = later ∧
      sinkOf t = sinkOf s ++ d.frames.map Frame.pack ∧ remainder t = d.rest ∧
      t.frameCnt = s.frameCnt + BitVec.ofNat 32 d.frames.length ∧
      t.skipCnt = s.skipCnt + BitVec.ofNat 32 d.skips ∧
      t.byteCnt = s.byteCnt + BitVec.ofNat 32 chunk.length ∧
      (responsesOf t).length = (responsesOf s).length + chunk.length

/-! ### The AQI unit -/

/-- R164, R165, with R154, R155 and R158 to R161 spelled out: AQI25 and AQI10 answer the index of the port value by their table, and change nothing else; a non-zero immediate raises cause 2. The bucket is that of BucketIsLargestBelow (R157). That an infinite rounded value gives the top of the last output range also with tables whose last range overflows is the model's choice between R160 and R161 (log entry 21). -/
def Obligations.AqiCommands : Prop :=
  ∀ (s : State) (imm8 : Byte) (c : Bits64),
    let x := F64.ofBits c
    let c10 := F64.ofBits 0x4024000000000000
    let r := div64 (rha (mul64 x c10)) c10
    let top := F64.ofBits s.rom.idx[6].high
    let index (t : Table) : Bits64 :=
      let i := bucketOf t r
      let q := div64 (sub64 (F64.ofBits s.rom.idx[i].high) (F64.ofBits s.rom.idx[i].low))
        (sub64 (F64.ofBits t[i].high) (F64.ofBits t[i].low))
      let a := add64 (mul64 q (sub64 r (F64.ofBits t[i].low))) (F64.ofBits s.rom.idx[i].low)
      if le64 x (F64.ofBits 0) then 0x0000000000000000
      else F64.toBits s.rom.nanOut (if r = .inf false then top else if gt64 a top then top else a)
    exec (.aqi25 0 c) s = .next { s with trace := s.trace ++
      [.response { ok := true, cause := 0, data := (index s.rom.bp25).setWidth 248 }] } ∧
    exec (.aqi10 0 c) s = .next { s with trace := s.trace ++
      [.response { ok := true, cause := 0, data := (index s.rom.bp10).setWidth 248 }] } ∧
    (imm8 ≠ 0#8 → ∀ i ∈ [Instr.aqi25 imm8 c, Instr.aqi10 imm8 c], exec i s = .next { s with
      status := { s.status with ill := true, illc := 2 }
      trace := s.trace ++ [.response { ok := false, cause := 2, data := 0 }] })

/-- R154: every negative value, both zeros and -Inf give `+0.0`, with any tables. -/
def Obligations.NonPositiveGivesZero : Prop :=
  ∀ (rom : Rom) (t : Table) (c : Bits64),
    F64.ofBits c ≠ .nan → (c.msb = true ∨ c = 0) → aqi rom t c = 0x0000000000000000

/-- R161: a NaN of any payload and either sign gives `NAN_OUT`, with any tables and any `NAN_OUT`. -/
def Obligations.NanGivesNanOut : Prop :=
  ∀ (rom : Rom) (t : Table) (c : Bits64),
    (c.extractLsb' 52 11).toNat = 2047 → c.extractLsb' 0 52 ≠ 0 → aqi rom t c = rom.nanOut

/-- R161: with any well-formed output ranges, +Inf and every value whose product with 10 overflows give 500 (with tables whose last range overflows by the model's choice, log entry 21); with the default tables the steps of R160 alone give it. -/
def Obligations.OverflowGivesTopIndex : Prop :=
  (∀ (rom : Rom) (t : Table) (c : Bits64), romWf rom = true →
    mul64 (F64.ofBits c) ten = .inf false → aqi rom t c = 0x407F400000000000) ∧
  ∀ t ∈ [Config.bp25, Config.bp10],
    clampTop Config.idx (interpolate Config.idx t (bucketOf t (.inf false)) (.inf false)) = F64.ofBits Config.idxMax

/-- R157: the bucket is the largest index whose low bound lies strictly below the rounded value, and 0 when none does; in a well-formed table every lower index qualifies too. -/
def Obligations.BucketIsLargestBelow : Prop :=
  ∀ (t : Table) (r : F64),
    (∀ j : Fin 7, lt64 (F64.ofBits t[j].low) r = true → j ≤ bucketOf t r) ∧
    (lt64 (F64.ofBits t[bucketOf t r].low) r = true ∨
      (bucketOf t r = 0 ∧ ∀ j : Fin 7, lt64 (F64.ofBits t[j].low) r = false)) ∧
    (tableWf t = true → lt64 (F64.ofBits t[bucketOf t r].low) r = true →
      ∀ j : Fin 7, j ≤ bucketOf t r → lt64 (F64.ofBits t[j].low) r = true)

/-- R162: two inputs that reach the rounding and round to the same value give the same result; 12.05 and 12.1 are such a pair. -/
def Obligations.SameRoundingSameIndex : Prop :=
  (∀ (rom : Rom) (t : Table) (c c' : Bits64),
    le64 (F64.ofBits c) F64.zero = false → le64 (F64.ofBits c') F64.zero = false →
    roundTenths (F64.ofBits c) = roundTenths (F64.ofBits c') → aqi rom t c = aqi rom t c') ∧
  roundTenths (F64.ofBits 0x402819999999999A) = F64.ofBits 0x4028333333333333 ∧
  roundTenths (F64.ofBits 0x4028333333333333) = F64.ofBits 0x4028333333333333

/-- R159: with any well-formed tables no result lies above the last index range's high bound. -/
def Obligations.IndexClampedAbove : Prop :=
  ∀ (rom : Rom) (t : Table) (c : Bits64), romWf rom = true →
    gt64 (aqiValue rom.idx t (F64.ofBits c)) (F64.ofBits rom.idx[6].high) = false

/-- R163: with the default tables every input that is no NaN gives a value in [0, 500]. -/
def Obligations.DefaultIndexInRange : Prop :=
  ∀ (t : Table) (c : Bits64), t ∈ [Config.bp25, Config.bp10] → F64.ofBits c ≠ .nan →
    le64 F64.zero (aqiValue Config.idx t (F64.ofBits c)) = true ∧
    le64 (aqiValue Config.idx t (F64.ofBits c)) (F64.ofBits Config.idxMax) = true

/-- R163: with the default tables the result is 500.0 for every rounded value of at least 500.4 (PM2.5) or 604.0 (PM10). -/
def Obligations.DefaultIndexSaturates : Prop :=
  ∀ r : F64,
    (le64 (F64.ofBits 0x407F466666666666) r = true →
      indexOfRounded Config.idx Config.bp25 r = F64.ofBits 0x407F400000000000) ∧
    (le64 (F64.ofBits 0x4082E00000000000) r = true →
      indexOfRounded Config.idx Config.bp10 r = F64.ofBits 0x407F400000000000)

/-- R163: the PM10 function of the default tables is not monotone: 425.0 gives more than 425.1. -/
def Obligations.PmTenNotMonotone : Prop :=
  ∃ c c' : Bits64, lt64 (F64.ofBits c) (F64.ofBits c') = true ∧
    lt64 (F64.ofBits (aqi Config.defaultRom Config.bp10 c')) (F64.ofBits (aqi Config.defaultRom Config.bp10 c)) = true

/-- R12: rounding an exact value always gives the nearest binary64 datum, the one with the even last place on a tie, and infinity from the midpoint above the largest finite datum on; and each of the four operations, on finite operands, is its exact result so rounded, once. An exact zero sum is -0.0 only where both terms are, and a division by zero is infinite, or NaN of 0. -/
def Obligations.RoundsToNearestEven : Prop :=
  (∀ (neg : Bool) (num den : Nat), 0 < den → isRounded neg num den (F64.round neg num den)) ∧
  ∀ (s t : Bool) (a b : Nat),
    let x := F64.fin s a
    let y := F64.fin t b
    let sum := signed s a + signed t b
    let diff := signed s a - signed t b
    isRounded (s != t) (a * b) (pow2 1074) (mul64 x y) ∧
    (if b = 0 then div64 x y = if a = 0 then .nan else .inf (s != t)
      else isRounded (s != t) (a * pow2 1074) b (div64 x y)) ∧
    (if sum = 0 then add64 x y = .fin (s && t) 0 else isRounded (decide (sum < 0)) sum.natAbs 1 (add64 x y)) ∧
    (if diff = 0 then sub64 x y = .fin (s && !t) 0 else isRounded (decide (diff < 0)) diff.natAbs 1 (sub64 x y))

/-- R56, R12: reading a bit pattern and writing it back loses nothing but the payload of a NaN. -/
def Obligations.BitPatternsRoundTrip : Prop :=
  ∀ (nanOut b : Bits64), F64.ofBits b ≠ .nan → (F64.ofBits b).toBits nanOut = b

/-- R156: `rha` keeps NaN and the infinities; of a finite binary64 it is `sign(x) * floor(|x| + 1/2)`, which is representable, keeps the sign of a zero result, and is `x` from 2^52 on. -/
def Obligations.RoundHalfAwayExact : Prop :=
  rha .nan = .nan ∧ (∀ neg : Bool, rha (.inf neg) = .inf neg) ∧
  ∀ (b : Bits64) (neg : Bool) (mag : Nat), F64.ofBits b = .fin neg mag →
    ∃ k : Nat, rha (F64.ofBits b) = .fin neg (k * 2 ^ 1074) ∧ isDatumMag (k * 2 ^ 1074) ∧
      2 * k * 2 ^ 1074 ≤ 2 * mag + 2 ^ 1074 ∧ 2 * mag < 2 * k * 2 ^ 1074 + 2 ^ 1074 ∧
      (2 ^ 52 * 2 ^ 1074 ≤ mag → k * 2 ^ 1074 = mag)

/-- R86: every u16 converts to binary64 exactly, so AQI25U and AQI10U pass on the value of the frame field. -/
def Obligations.SixteenBitFieldsConvertExactly : Prop :=
  ∀ v : U16,
    assemble (.aqi25U v) = [encode (.aqi25 0 ((f64OfNat v.toNat).toBits Config.nanOut))] ∧
    assemble (.aqi10U v) = [encode (.aqi10 0 ((f64OfNat v.toNat).toBits Config.nanOut))] ∧
    F64.ofBits ((f64OfNat v.toNat).toBits Config.nanOut) = .fin false (v.toNat * 2 ^ 1074)

/-! ### The whole machine -/

/-- R25, R26, R27, R31, R36: the invariant holds at reset. -/
def Obligations.ResetMeetsInvariant : Prop := State.reset.Inv

/-- R25, R26, R27, R31: every step keeps the shape of the remainder, NEED = 32 - LEN, the accounting of bytes, a legal STATUS, and well-formed tables. -/
def Obligations.StepKeepsInvariant : Prop :=
  ∀ s t : State, s.Inv → step s = .next t → t.Inv

/-- R234, R25: from a state that meets the invariant no step stops; an illegal command is answered, not trapped. -/
def Obligations.StepNeverStops : Prop :=
  ∀ s : State, s.Inv → ∃ t : State, step s = .next t

/-- R34, R212: no step changes the ROMs. -/
def Obligations.RomsNeverChange : Prop :=
  ∀ s t : State, step s = .next t → t.rom = s.rom

/-- R238: the sticky bits ILL and MAL are cleared by nothing but a RESET command or a power-on. -/
def Obligations.StickyBitsClearedOnlyByReset : Prop :=
  ∀ s t : State, step s = .next t →
    (∀ rest, s.inputs ≠ .powerOn :: rest) →
    (∀ c rest, s.inputs = .command c :: rest → c.cmd ≠ 0x0100) →
    (s.status.ill = true → t.status.ill = true) ∧ (s.status.mal = true → t.status.mal = true)

/-- R62, R212, R27: the window, LEN, NEED, the counters and FRM, SKP, MAL are changed by no command but PUSH and a legal RESET; such a command delivers one response and no frame, and a legal one leaves ILL and ILLC too. -/
def Obligations.OnlyPushAndResetChangeTheStream : Prop :=
  ∀ (i : Instr) (s t : State), (∀ b, i ≠ .push b) → i ≠ .reset 0 → exec i s = .next t →
    t.buf = s.buf ∧ t.len = s.len ∧ t.need = s.need ∧ t.frameCnt = s.frameCnt ∧ t.skipCnt = s.skipCnt ∧
    t.byteCnt = s.byteCnt ∧ t.status.mal = s.status.mal ∧ t.status.frm = s.status.frm ∧
    t.status.skp = s.status.skp ∧ t.rom = s.rom ∧ t.inputs = s.inputs ∧ t.powerOns = s.powerOns ∧
    (∃ r, t.trace = s.trace ++ [.response r]) ∧
    (i.wf = true → t.status = s.status)

/-- R62: DECODE, RDREG, AQI25 and AQI10, when legal, answer the same if issued twice in a row. -/
def Obligations.ReadsAreIdempotent : Prop :=
  ∀ (i : Instr) (s : State), i.wf = true → (∀ b, i ≠ .push b) → i ≠ .reset 0 →
    ∃ (r : Response) (t u : State), exec i s = .next t ∧ exec i t = .next u ∧
      t.trace = s.trace ++ [.response r] ∧ u.trace = t.trace ++ [.response r]

/-- R35: what DECODE, AQI25 and AQI10 answer depends only on their operands and the table ROMs, not on the stream or any earlier command. -/
def Obligations.StatelessUnitsIgnoreTheStream : Prop :=
  ∀ (s s' : State) (n imm8 : Byte) (dwin : BitVec 256) (c : Bits64), s.rom = s'.rom →
    ∀ i ∈ [Instr.decode n dwin, Instr.aqi25 imm8 c, Instr.aqi10 imm8 c],
      ∃ (r : Response) (t t' : State), exec i s = .next t ∧ exec i s' = .next t' ∧
        t.trace = s.trace ++ [.response r] ∧ t'.trace = s'.trace ++ [.response r]

/-- R244: a step of one instance of a platform is its own step and leaves every other instance as it was. -/
def Obligations.InstancesAreIndependent : Prop :=
  ∀ (p q : Platform) (k : Nat) (s : State), p[k]? = some s → stepInstance k p = .next q →
    (∃ t, step s = .next t ∧ q[k]? = some t) ∧ q.length = p.length ∧ ∀ j, j ≠ k → q[j]? = p[j]?
end

