-- ==== Sys2Proof/Laws/Float64.lean ====
section
/-! SUPPORT. The scaling of binary64 data as powers of two. -/

namespace Sys2Proof.Machine

theorem pow2_eq (e : Nat) : pow2 e = 2 ^ e := by simp [pow2, Nat.shiftLeft_eq]

theorem pow2_pos (e : Nat) : 0 < pow2 e := by rw [pow2_eq]; positivity

/-- Rounding to a whole number is off by at most one half, and on a tie the result is even. -/
theorem roundHalfEven_spec (num den : Nat) (h : 0 < den) :
    2 * den * roundHalfEven num den ≤ 2 * num + den ∧ 2 * num ≤ 2 * den * roundHalfEven num den + den ∧
    (2 * den * roundHalfEven num den = 2 * num + den ∨ 2 * num = 2 * den * roundHalfEven num den + den →
      roundHalfEven num den % 2 = 0) := by
  have hd := Nat.div_add_mod num den
  have hr := Nat.mod_lt num h
  unfold roundHalfEven
  generalize num / den = q at *
  generalize num % den = r at *
  have e1 : 2 * den * q = 2 * (den * q) := by ring
  have e2 : 2 * den * (q + 1) = 2 * (den * q) + 2 * den := by ring
  dsimp only
  split_ifs <;> simp only [e1, e2] <;> omega

end Sys2Proof.Machine
end

