-- ==== Sys2Proof/Laws/State.lean ====
section
/-! SUPPORT. What each operation over the state writes, one lemma per field. -/

namespace Sys2Proof.Machine

@[simp] theorem respond_buf (r : Response) (s : State) : (respond r s).buf = s.buf := by simp only [respond]
@[simp] theorem respond_len (r : Response) (s : State) : (respond r s).len = s.len := by simp only [respond]
@[simp] theorem respond_need (r : Response) (s : State) : (respond r s).need = s.need := by simp only [respond]
@[simp] theorem respond_status (r : Response) (s : State) : (respond r s).status = s.status := by simp only [respond]
@[simp] theorem respond_frameCnt (r : Response) (s : State) : (respond r s).frameCnt = s.frameCnt := by simp only [respond]
@[simp] theorem respond_skipCnt (r : Response) (s : State) : (respond r s).skipCnt = s.skipCnt := by simp only [respond]
@[simp] theorem respond_byteCnt (r : Response) (s : State) : (respond r s).byteCnt = s.byteCnt := by simp only [respond]
@[simp] theorem respond_rom (r : Response) (s : State) : (respond r s).rom = s.rom := by simp only [respond]
@[simp] theorem respond_inputs (r : Response) (s : State) : (respond r s).inputs = s.inputs := by simp only [respond]
@[simp] theorem respond_trace (r : Response) (s : State) : (respond r s).trace = s.trace ++ [.response r] := by simp only [respond]
@[simp] theorem respond_powerOns (r : Response) (s : State) : (respond r s).powerOns = s.powerOns := by simp only [respond]

@[simp] theorem sinkRecord_eq (f : Frame) : sinkRecord f = .frame f.pack := rfl

@[simp] theorem emitAll_buf (fs : List Frame) (s : State) : (emitAll fs s).buf = s.buf := by simp only [emitAll]
@[simp] theorem emitAll_len (fs : List Frame) (s : State) : (emitAll fs s).len = s.len := by simp only [emitAll]
@[simp] theorem emitAll_need (fs : List Frame) (s : State) : (emitAll fs s).need = s.need := by simp only [emitAll]
@[simp] theorem emitAll_status (fs : List Frame) (s : State) : (emitAll fs s).status = s.status := by simp only [emitAll]
@[simp] theorem emitAll_frameCnt (fs : List Frame) (s : State) : (emitAll fs s).frameCnt = s.frameCnt := by simp only [emitAll]
@[simp] theorem emitAll_skipCnt (fs : List Frame) (s : State) : (emitAll fs s).skipCnt = s.skipCnt := by simp only [emitAll]
@[simp] theorem emitAll_byteCnt (fs : List Frame) (s : State) : (emitAll fs s).byteCnt = s.byteCnt := by simp only [emitAll]
@[simp] theorem emitAll_rom (fs : List Frame) (s : State) : (emitAll fs s).rom = s.rom := by simp only [emitAll]
@[simp] theorem emitAll_inputs (fs : List Frame) (s : State) : (emitAll fs s).inputs = s.inputs := by simp only [emitAll]
@[simp] theorem emitAll_trace (fs : List Frame) (s : State) : (emitAll fs s).trace = s.trace ++ fs.map (fun f => .frame f.pack) := rfl
@[simp] theorem emitAll_powerOns (fs : List Frame) (s : State) : (emitAll fs s).powerOns = s.powerOns := by simp only [emitAll]

@[simp] theorem raiseIllegal_buf (k : Cause) (s : State) : (raiseIllegal k s).buf = s.buf := by simp only [raiseIllegal, respond]
@[simp] theorem raiseIllegal_len (k : Cause) (s : State) : (raiseIllegal k s).len = s.len := by simp only [raiseIllegal, respond]
@[simp] theorem raiseIllegal_need (k : Cause) (s : State) : (raiseIllegal k s).need = s.need := by simp only [raiseIllegal, respond]
@[simp] theorem raiseIllegal_status (k : Cause) (s : State) : (raiseIllegal k s).status = s.status.recordIllegal k := by simp only [raiseIllegal, respond]
@[simp] theorem raiseIllegal_frameCnt (k : Cause) (s : State) : (raiseIllegal k s).frameCnt = s.frameCnt := by simp only [raiseIllegal, respond]
@[simp] theorem raiseIllegal_skipCnt (k : Cause) (s : State) : (raiseIllegal k s).skipCnt = s.skipCnt := by simp only [raiseIllegal, respond]
@[simp] theorem raiseIllegal_byteCnt (k : Cause) (s : State) : (raiseIllegal k s).byteCnt = s.byteCnt := by simp only [raiseIllegal, respond]
@[simp] theorem raiseIllegal_rom (k : Cause) (s : State) : (raiseIllegal k s).rom = s.rom := by simp only [raiseIllegal, respond]
@[simp] theorem raiseIllegal_inputs (k : Cause) (s : State) : (raiseIllegal k s).inputs = s.inputs := by simp only [raiseIllegal, respond]
@[simp] theorem raiseIllegal_trace (k : Cause) (s : State) : (raiseIllegal k s).trace = s.trace ++ [.response (illegalResponse k)] := by simp only [raiseIllegal, respond]
@[simp] theorem raiseIllegal_powerOns (k : Cause) (s : State) : (raiseIllegal k s).powerOns = s.powerOns := by simp only [raiseIllegal, respond]

@[simp] theorem storeRemainder_buf (rest : List Byte) (s : State) : (storeRemainder rest s).buf = writeWindow rest s.buf := by simp only [storeRemainder]
@[simp] theorem storeRemainder_len (rest : List Byte) (s : State) : (storeRemainder rest s).len = BitVec.ofNat 6 rest.length := by simp only [storeRemainder]
@[simp] theorem storeRemainder_need (rest : List Byte) (s : State) : (storeRemainder rest s).need = s.need := by simp only [storeRemainder]
@[simp] theorem storeRemainder_status (rest : List Byte) (s : State) : (storeRemainder rest s).status = s.status := by simp only [storeRemainder]
@[simp] theorem storeRemainder_frameCnt (rest : List Byte) (s : State) : (storeRemainder rest s).frameCnt = s.frameCnt := by simp only [storeRemainder]
@[simp] theorem storeRemainder_skipCnt (rest : List Byte) (s : State) : (storeRemainder rest s).skipCnt = s.skipCnt := by simp only [storeRemainder]
@[simp] theorem storeRemainder_byteCnt (rest : List Byte) (s : State) : (storeRemainder rest s).byteCnt = s.byteCnt := by simp only [storeRemainder]
@[simp] theorem storeRemainder_rom (rest : List Byte) (s : State) : (storeRemainder rest s).rom = s.rom := by simp only [storeRemainder]
@[simp] theorem storeRemainder_inputs (rest : List Byte) (s : State) : (storeRemainder rest s).inputs = s.inputs := by simp only [storeRemainder]
@[simp] theorem storeRemainder_trace (rest : List Byte) (s : State) : (storeRemainder rest s).trace = s.trace := by simp only [storeRemainder]
@[simp] theorem storeRemainder_powerOns (rest : List Byte) (s : State) : (storeRemainder rest s).powerOns = s.powerOns := by simp only [storeRemainder]

@[simp] theorem countPush_buf (frames skips : Nat) (s : State) : (countPush frames skips s).buf = s.buf := by simp only [countPush]
@[simp] theorem countPush_len (frames skips : Nat) (s : State) : (countPush frames skips s).len = s.len := by simp only [countPush]
@[simp] theorem countPush_need (frames skips : Nat) (s : State) : (countPush frames skips s).need = s.need := by simp only [countPush]
@[simp] theorem countPush_status (frames skips : Nat) (s : State) : (countPush frames skips s).status = s.status := by simp only [countPush]
@[simp] theorem countPush_frameCnt (frames skips : Nat) (s : State) : (countPush frames skips s).frameCnt = s.frameCnt + BitVec.ofNat 32 frames := by simp only [countPush]
@[simp] theorem countPush_skipCnt (frames skips : Nat) (s : State) : (countPush frames skips s).skipCnt = s.skipCnt + BitVec.ofNat 32 skips := by simp only [countPush]
@[simp] theorem countPush_byteCnt (frames skips : Nat) (s : State) : (countPush frames skips s).byteCnt = s.byteCnt + 1 := by simp only [countPush]
@[simp] theorem countPush_rom (frames skips : Nat) (s : State) : (countPush frames skips s).rom = s.rom := by simp only [countPush]
@[simp] theorem countPush_inputs (frames skips : Nat) (s : State) : (countPush frames skips s).inputs = s.inputs := by simp only [countPush]
@[simp] theorem countPush_trace (frames skips : Nat) (s : State) : (countPush frames skips s).trace = s.trace := by simp only [countPush]
@[simp] theorem countPush_powerOns (frames skips : Nat) (s : State) : (countPush frames skips s).powerOns = s.powerOns := by simp only [countPush]

@[simp] theorem resetRegisters_buf (s : State) : (resetRegisters s).buf = s.buf := by simp only [resetRegisters]
@[simp] theorem resetRegisters_len (s : State) : (resetRegisters s).len = 0 := by simp only [resetRegisters]
@[simp] theorem resetRegisters_need (s : State) : (resetRegisters s).need = 32 := by simp only [resetRegisters]
@[simp] theorem resetRegisters_status (s : State) : (resetRegisters s).status = Status.reset := by simp only [resetRegisters]
@[simp] theorem resetRegisters_frameCnt (s : State) : (resetRegisters s).frameCnt = 0 := by simp only [resetRegisters]
@[simp] theorem resetRegisters_skipCnt (s : State) : (resetRegisters s).skipCnt = 0 := by simp only [resetRegisters]
@[simp] theorem resetRegisters_byteCnt (s : State) : (resetRegisters s).byteCnt = 0 := by simp only [resetRegisters]
@[simp] theorem resetRegisters_rom (s : State) : (resetRegisters s).rom = s.rom := by simp only [resetRegisters]
@[simp] theorem resetRegisters_inputs (s : State) : (resetRegisters s).inputs = s.inputs := by simp only [resetRegisters]
@[simp] theorem resetRegisters_trace (s : State) : (resetRegisters s).trace = s.trace := by simp only [resetRegisters]
@[simp] theorem resetRegisters_powerOns (s : State) : (resetRegisters s).powerOns = s.powerOns := by simp only [resetRegisters]

@[simp] theorem powerOn_buf (s : State) : (powerOn s).buf = freeWindow s.powerOns := by simp only [powerOn, resetRegisters]
@[simp] theorem powerOn_len (s : State) : (powerOn s).len = 0 := by simp only [powerOn, resetRegisters]
@[simp] theorem powerOn_need (s : State) : (powerOn s).need = 32 := by simp only [powerOn, resetRegisters]
@[simp] theorem powerOn_status (s : State) : (powerOn s).status = Status.reset := by simp only [powerOn, resetRegisters]
@[simp] theorem powerOn_frameCnt (s : State) : (powerOn s).frameCnt = 0 := by simp only [powerOn, resetRegisters]
@[simp] theorem powerOn_skipCnt (s : State) : (powerOn s).skipCnt = 0 := by simp only [powerOn, resetRegisters]
@[simp] theorem powerOn_byteCnt (s : State) : (powerOn s).byteCnt = 0 := by simp only [powerOn, resetRegisters]
@[simp] theorem powerOn_rom (s : State) : (powerOn s).rom = s.rom := by simp only [powerOn, resetRegisters]
@[simp] theorem powerOn_inputs (s : State) : (powerOn s).inputs = s.inputs := by simp only [powerOn, resetRegisters]
@[simp] theorem powerOn_trace (s : State) : (powerOn s).trace = s.trace := by simp only [powerOn, resetRegisters]
@[simp] theorem powerOn_powerOns (s : State) : (powerOn s).powerOns = s.powerOns + 1 := by simp only [powerOn, resetRegisters]

@[simp] theorem recordIllegal_ill (k : Cause) (st : Status) : (st.recordIllegal k).ill = true := by simp only [Status.recordIllegal]
@[simp] theorem recordIllegal_mal (k : Cause) (st : Status) : (st.recordIllegal k).mal = st.mal := by simp only [Status.recordIllegal]
@[simp] theorem recordIllegal_frm (k : Cause) (st : Status) : (st.recordIllegal k).frm = st.frm := by simp only [Status.recordIllegal]
@[simp] theorem recordIllegal_skp (k : Cause) (st : Status) : (st.recordIllegal k).skp = st.skp := by simp only [Status.recordIllegal]
@[simp] theorem recordIllegal_illc (k : Cause) (st : Status) : (st.recordIllegal k).illc = causeCode k := by simp only [Status.recordIllegal]

@[simp] theorem recordPush_ill (f k : Nat) (m : Bool) (st : Status) : (st.recordPush f k m).ill = st.ill := by simp only [Status.recordPush]
@[simp] theorem recordPush_mal (f k : Nat) (m : Bool) (st : Status) : (st.recordPush f k m).mal = (st.mal || m) := by simp only [Status.recordPush]
@[simp] theorem recordPush_frm (f k : Nat) (m : Bool) (st : Status) : (st.recordPush f k m).frm = (f != 0) := by simp only [Status.recordPush]
@[simp] theorem recordPush_skp (f k : Nat) (m : Bool) (st : Status) : (st.recordPush f k m).skp = BitVec.ofNat 2 k := by simp only [Status.recordPush]
@[simp] theorem recordPush_illc (f k : Nat) (m : Bool) (st : Status) : (st.recordPush f k m).illc = st.illc := by simp only [Status.recordPush]

end Sys2Proof.Machine
end

