-- ==== Sys2Proof/Laws/Window.lean ====
section
/-! SUPPORT. The window: what storing a remainder leaves in it. -/

namespace Sys2Proof.Machine

@[simp] theorem writeWindow_get (rest : List Byte) (buf : Vector Byte 32) (i : Nat) (h : i < 32) :
    (writeWindow rest buf)[i] = rest.getD i buf[i] := by
  simp only [writeWindow, Vector.getElem_mk, List.getElem_toArray, List.getElem_append, List.length_take,
    List.getElem_take, List.getElem_drop, Vector.getElem_toList]
  by_cases hi : i < rest.length
  · simp [hi, h]
  · simp [hi, show rest.length + (i - min 32 rest.length) = i by omega]

/-- Bytes at and beyond the end of a stored remainder keep their values. -/
theorem writeWindow_beyond (rest : List Byte) (buf : Vector Byte 32) (i : Nat) (h : i < 32) (hi : rest.length ≤ i) :
    (writeWindow rest buf)[i] = buf[i] := by
  simp [List.getElem?_eq_none hi]

theorem remainder_length (s : State) : (remainder s).length = min s.len.toNat 32 := by
  simp [remainder]

/-- A remainder that fits the window is read back as it was stored. -/
theorem take_writeWindow (rest : List Byte) (buf : Vector Byte 32) (h : rest.length ≤ 32) :
    (writeWindow rest buf).toList.take rest.length = rest := by
  apply List.ext_getElem
  · simp [h]
  · intro i h1 h2
    simp [h2]

theorem remainder_of_stored (t : State) (rest : List Byte) (buf : Vector Byte 32) (h : rest.length ≤ 32)
    (hb : t.buf = writeWindow rest buf) (hl : t.len = BitVec.ofNat 6 rest.length) : remainder t = rest := by
  have : t.len.toNat = rest.length := by rw [hl, BitVec.toNat_ofNat, Nat.mod_eq_of_lt (by omega)]
  rw [remainder, hb, this, take_writeWindow rest buf h]

end Sys2Proof.Machine
end

