-- ==== Sys2Proof/Laws/Reassembler.lean ====
section
/-! SUPPORT. The drain and PUSH: what finishing a PUSH writes, and that the bound on the drain's turns is never met. -/

namespace Sys2Proof.Machine

@[simp] theorem finishPush_buf (d : Drain) (s : State) : (finishPush d s).buf = writeWindow d.rest s.buf := by
  simp [finishPush]
@[simp] theorem finishPush_len (d : Drain) (s : State) : (finishPush d s).len = BitVec.ofNat 6 d.rest.length := by
  simp [finishPush]
@[simp] theorem finishPush_need (d : Drain) (s : State) : (finishPush d s).need = needAfter d.stop s.need := by
  simp [finishPush]
@[simp] theorem finishPush_status (d : Drain) (s : State) : (finishPush d s).status = s.status.recordPush d.frames.length d.skips d.stop.malformed := by
  simp [finishPush]
@[simp] theorem finishPush_frameCnt (d : Drain) (s : State) : (finishPush d s).frameCnt = s.frameCnt + BitVec.ofNat 32 d.frames.length := by
  simp [finishPush]
@[simp] theorem finishPush_skipCnt (d : Drain) (s : State) : (finishPush d s).skipCnt = s.skipCnt + BitVec.ofNat 32 d.skips := by
  simp [finishPush]
@[simp] theorem finishPush_byteCnt (d : Drain) (s : State) : (finishPush d s).byteCnt = s.byteCnt + 1 := by
  simp [finishPush]
@[simp] theorem finishPush_rom (d : Drain) (s : State) : (finishPush d s).rom = s.rom := by
  simp [finishPush]
@[simp] theorem finishPush_inputs (d : Drain) (s : State) : (finishPush d s).inputs = s.inputs := by
  simp [finishPush]
@[simp] theorem finishPush_trace (d : Drain) (s : State) : (finishPush d s).trace = s.trace ++ d.frames.map (fun f => .frame f.pack) ++ [.response (okResponse (pushData d))] := by
  simp [finishPush]
@[simp] theorem finishPush_powerOns (d : Drain) (s : State) : (finishPush d s).powerOns = s.powerOns := by
  simp [finishPush]

/-- Everything the frame decoder can answer, and when. -/
theorem frameDecode_cases (s : List Byte) :
    (s = [] ∧ frameDecode s = .needMoreBytes 32) ∨
    (∃ b t, s = b :: t ∧ b ≠ 0x42#8 ∧ frameDecode s = .skip) ∨
    (s = [0x42#8] ∧ frameDecode s = .needMoreBytes 31) ∨
    (∃ b t, s = 0x42#8 :: b :: t ∧ b ≠ 0x4D#8 ∧ frameDecode s = .skip) ∨
    (∃ t, s = 0x42#8 :: 0x4D#8 :: t ∧ s.length < 32 ∧ frameDecode s = .needMoreBytes (32 - s.length)) ∨
    (∃ t, s = 0x42#8 :: 0x4D#8 :: t ∧ 32 ≤ s.length ∧ frameDecode s = .frame (parse (s.take 32))) := by
  match s with
  | [] => exact .inl ⟨rfl, rfl⟩
  | b0 :: rest =>
    by_cases h0 : b0 = 0x42#8
    · subst h0
      match rest with
      | [] => exact .inr (.inr (.inl ⟨rfl, rfl⟩))
      | b1 :: t =>
        by_cases h1 : b1 = 0x4D#8
        · subst h1
          by_cases hl : t.length + 2 < 32
          · refine .inr (.inr (.inr (.inr (.inl ⟨t, rfl, by simpa using hl, ?_⟩))))
            simp [frameDecode, hl]
          · refine .inr (.inr (.inr (.inr (.inr ⟨t, rfl, by simp; omega, ?_⟩))))
            simp [frameDecode, hl]
        · exact .inr (.inr (.inr (.inl ⟨b1, t, rfl, h1, by simp [frameDecode, h1]⟩)))
    · exact .inr (.inl ⟨b0, rest, rfl, h0, by simp [frameDecode, h0]⟩)

/-- A result that goes on has something to drop. -/
theorem length_pos_of_frameDecode (s : List Byte) (h : ∀ m, frameDecode s ≠ .needMoreBytes m) : 0 < s.length := by
  cases s with
  | nil => exact absurd rfl (h 32)
  | cons b t => simp

/-- Two bounds on the turns that both exceed the length give the same drain. -/
theorem drainLoop_enough (m n : Nat) (s : List Byte) (hm : s.length < m) (hn : s.length < n) :
    drainLoop m s = drainLoop n s := by
  induction m generalizing n s with
  | zero => omega
  | succ m ih =>
    obtain _ | n := n
    · omega
    · simp only [drainLoop]
      cases e : frameDecode s with
      | needMoreBytes k => rfl
      | malformedInput => rfl
      | skip =>
        have := length_pos_of_frameDecode s (by simp [e])
        simp only [ih n (s.drop 1) (by simp; omega) (by simp; omega)]
      | frame f =>
        have := length_pos_of_frameDecode s (by simp [e])
        simp only [Config.frameBytes_eq, ih n (s.drop 32) (by simp; omega) (by simp; omega)]

/-- The drain with any bound that exceeds the length. -/
theorem drain_eq_drainLoop (n : Nat) (s : List Byte) (h : s.length < n) : drain s = drainLoop n s :=
  drainLoop_enough _ _ s (Nat.lt_succ_self _) h

end Sys2Proof.Machine
end

