-- ==== Sys2Proof/Laws/Meanings.lean ====
section
/-! SUPPORT. For each command, everything its meaning can answer. -/

namespace Sys2Proof.Machine

theorem execReset_cases (imm8 : Byte) (s : State) :
    (imm8 = 0 ∧ execReset imm8 s = .next (respond (okResponse 0) (resetRegisters s))) ∨
    (imm8 ≠ 0 ∧ execReset imm8 s = .next (raiseIllegal .nonzeroImm s)) := by
  by_cases h : imm8 = 0#8 <;> simp [execReset, mustBeZero, h]

theorem execPush_cases (b : Byte) (s : State) :
    (s.len.toNat < 32 ∧ execPush b s = .next (finishPush (drain (remainder s ++ [b])) s)) ∨
    (32 ≤ s.len.toNat ∧ execPush b s = .fault .appendBeyondWindow) := by
  by_cases h : s.len.toNat < 32
  · exact .inl ⟨h, by simp [execPush, h]⟩
  · exact .inr ⟨by omega, by simp [execPush, h]⟩

theorem execDecode_cases (n : Byte) (dwin : BitVec 256) (s : State) :
    (n.toNat ≤ 32 ∧ execDecode n dwin s =
      .next (respond (okResponse (frameDecode (dwinBytes n.toNat dwin)).pack) s)) ∨
    (32 < n.toNat ∧ execDecode n dwin s = .next (raiseIllegal .badLength s)) := by
  by_cases h : n.toNat ≤ 32
  · exact .inl ⟨h, by simp [execDecode, lengthCheck, h]⟩
  · exact .inr ⟨by omega, by simp [execDecode, lengthCheck, h]⟩

theorem execRdreg_cases (r : Byte) (s : State) :
    (∃ reg, regOfNumber r = some reg ∧
      execRdreg r s = .next (respond (okResponse ((readReg s reg).setWidth 248)) s)) ∨
    (regOfNumber r = none ∧ execRdreg r s = .next (raiseIllegal .badRegister s)) := by
  cases h : regOfNumber r <;> simp [execRdreg, h]

theorem aqiCommand_cases (t : Table) (imm8 : Byte) (c : Bits64) (s : State) :
    (imm8 = 0 ∧ aqiCommand t imm8 c s = .next (respond (okResponse ((aqi s.rom t c).setWidth 248)) s)) ∨
    (imm8 ≠ 0 ∧ aqiCommand t imm8 c s = .next (raiseIllegal .nonzeroImm s)) := by
  by_cases h : imm8 = 0#8 <;> simp [aqiCommand, mustBeZero, h]

/-- What exec answers, for every command: a response alone, an illegal command, a reset, a PUSH, or the fault of a PUSH. -/
theorem exec_cases (i : Instr) (s : State) :
    (∃ data, exec i s = .next (respond (okResponse data) s)) ∨
    (∃ k, exec i s = .next (raiseIllegal k s)) ∨
    (i = .reset 0 ∧ exec i s = .next (respond (okResponse 0) (resetRegisters s))) ∨
    (∃ b, i = .push b ∧ s.len.toNat < 32 ∧ exec i s = .next (finishPush (drain (remainder s ++ [b])) s)) ∨
    (∃ b, i = .push b ∧ 32 ≤ s.len.toNat ∧ exec i s = .fault .appendBeyondWindow) := by
  cases i with
  | reset imm8 =>
    obtain ⟨rfl, h⟩ | ⟨_, h⟩ := execReset_cases imm8 s
    · exact .inr (.inr (.inl ⟨rfl, h⟩))
    · exact .inr (.inl ⟨_, h⟩)
  | push b =>
    obtain ⟨h, e⟩ | ⟨h, e⟩ := execPush_cases b s
    · exact .inr (.inr (.inr (.inl ⟨b, rfl, h, e⟩)))
    · exact .inr (.inr (.inr (.inr ⟨b, rfl, h, e⟩)))
  | decode n dwin =>
    obtain ⟨_, h⟩ | ⟨_, h⟩ := execDecode_cases n dwin s
    · exact .inl ⟨_, h⟩
    · exact .inr (.inl ⟨_, h⟩)
  | rdreg r =>
    obtain ⟨_, _, h⟩ | ⟨_, h⟩ := execRdreg_cases r s
    · exact .inl ⟨_, h⟩
    · exact .inr (.inl ⟨_, h⟩)
  | aqi25 imm8 c =>
    obtain ⟨_, h⟩ | ⟨_, h⟩ := aqiCommand_cases s.rom.bp25 imm8 c s
    · exact .inl ⟨_, h⟩
    · exact .inr (.inl ⟨_, h⟩)
  | aqi10 imm8 c =>
    obtain ⟨_, h⟩ | ⟨_, h⟩ := aqiCommand_cases s.rom.bp10 imm8 c s
    · exact .inl ⟨_, h⟩
    · exact .inr (.inl ⟨_, h⟩)

end Sys2Proof.Machine
end

