-- ==== Sys2Proof/Laws/PerInstr.lean ====
section
/-! SUPPORT. Facts about every command as syntax, one lemma per constructor. -/

/-- The word of an encoded command holds its opcode in bits 15:8 and its immediate in bits 7:0 (30_encoding.md R75). -/
def Sys2Proof.Laws.EncodedWord.Statement (i : Sys2Proof.Instr) : Prop :=
  Sys2Proof.opField (Sys2Proof.encode i).cmd = i.opcode ∧ Sys2Proof.immField (Sys2Proof.encode i).cmd = i.imm

namespace Sys2Proof.Laws.EncodedWord

/-- The two fields of a word put together from an opcode and an immediate. -/
theorem fields_of_append (op imm8 : Byte) :
    opField (op ++ imm8) = op ∧ immField (op ++ imm8) = imm8 := by
  constructor
  · rw [opField, BitVec.extractLsb'_append_eq_left]
  · rw [immField, BitVec.extractLsb'_append_eq_right]

theorem reset (imm8 : Byte) : Statement (.reset imm8) := fields_of_append _ _
theorem push (b : Byte) : Statement (.push b) := fields_of_append _ _
theorem decode (n : Byte) (dwin : BitVec 256) : Statement (.decode n dwin) := fields_of_append _ _
theorem rdreg (r : Byte) : Statement (.rdreg r) := fields_of_append _ _
theorem aqi25 (imm8 : Byte) (x : Bits64) : Statement (.aqi25 imm8 x) := fields_of_append _ _
theorem aqi10 (imm8 : Byte) (x : Bits64) : Statement (.aqi10 imm8 x) := fields_of_append _ _

end Sys2Proof.Laws.EncodedWord
end

