-- ==== Sys2Proof/Laws/Step.lean ====
section
/-! SUPPORT. Everything a step can do. -/

namespace Sys2Proof.Machine

/-- A step is refused on ill-formed tables, or waits, or powers on, or performs a decoded command, or raises cause 1. -/
theorem step_cases (s : State) :
    (romWf s.rom = false ∧ step s = .refused .illFormedTables) ∨
    (romWf s.rom = true ∧ s.inputs = [] ∧ step s = .next s) ∨
    (romWf s.rom = true ∧ ∃ xs, s.inputs = .powerOn :: xs ∧ step s = .next (powerOn { s with inputs := xs })) ∨
    (romWf s.rom = true ∧ ∃ c xs i, s.inputs = .command c :: xs ∧ decodeCommand c = .ok i ∧
      step s = exec i { s with inputs := xs }) ∨
    (romWf s.rom = true ∧ ∃ c xs k, s.inputs = .command c :: xs ∧ decodeCommand c = .error k ∧
      step s = .next (raiseIllegal k { s with inputs := xs })) := by
  unfold step takeInput
  cases hw : romWf s.rom with
  | false => exact .inl ⟨rfl, by cases s.inputs <;> simp [whenBuilt, hw]⟩
  | true =>
    right
    cases hi : s.inputs with
    | nil => exact .inl ⟨rfl, rfl, by simp [whenBuilt, hw]⟩
    | cons x xs =>
      right
      cases x with
      | powerOn => exact .inl ⟨rfl, xs, rfl, by simp [whenBuilt, hw, runInput]⟩
      | command c =>
        right
        cases hd : decodeCommand c with
        | ok i => exact .inl ⟨rfl, c, xs, i, rfl, hd, by simp [whenBuilt, hw, runInput, runCommand, hd]⟩
        | error k => exact .inr ⟨rfl, c, xs, k, rfl, hd, by simp [whenBuilt, hw, runInput, runCommand, hd]⟩

end Sys2Proof.Machine
end

