-- ==== Sys2Proof/Tests/Slice0.lean ====
section
/-! SUPPORT. Tests of the model against the spec's own examples (95_test_vectors.md; the row or vector is named at each test), words written out from 30_encoding.md, ill-formed terms, and a witness for the hypotheses of every statement that has some. -/

namespace Sys2Proof.Tests

set_option Elab.async false

open Sys2Proof Sys2Proof.Machine

/-! ### Small states and what an outcome holds -/

/-- The block after reset with this at its command port. -/
def atPort (inputs : List Input) : State := { State.reset with inputs := inputs }

/-- A command word with both operand ports 0. -/
def word (w : BitVec 16) : Input := .command { cmd := w, din64 := 0, dwin := 0 }

/-- A block that has been pushed exactly these bytes and holds them all. -/
def holding (bytes : List Byte) : State :=
  { storeRemainder bytes State.reset with
    need := BitVec.ofNat 6 (32 - bytes.length)
    byteCnt := BitVec.ofNat 32 bytes.length }

/-- A block whose LEN is `n`, a value that does not occur between commands when `n` is 32 or more (R24). -/
def withLen (n : BitVec 6) : State := { State.reset with len := n }

/-- The next state, if there is one. -/
def next? (o : Host.Outcome State Fault Refusal) : Option State :=
  match o with
  | .next t    => some t
  | .fault _   => none
  | .refused _ => none

/-- What `i` delivers, from a state that has delivered nothing. -/
def delivers (i : Instr) (s : State) : Option (List Output) := (next? (exec i s)).map (·.trace)

/-- A response as 95_test_vectors.md writes it. -/
def response (ok : Bool) (cause : BitVec 3) (data : BitVec 248) : Output :=
  .response { ok := ok, cause := cause, data := data }

/-- The remainder, NEED, the three counters and the word STATUS after a PUSH. -/
def pushed (b : Byte) (s : State) : Option (List Byte × Nat × List Nat × Nat) :=
  (next? (exec (.push b) s)).map fun t =>
    (remainder t, t.need.toNat, [t.frameCnt.toNat, t.skipCnt.toNat, t.byteCnt.toNat], t.status.word.toNat)

/-- The golden frame `G`. -/
def golden : List Byte :=
  [0x42, 0x4D, 0x00, 0x1C, 0x00, 0x03, 0x00, 0x04, 0x00, 0x07, 0x00, 0x03, 0x00, 0x04, 0x00, 0x07,
   0x02, 0xD0, 0x00, 0xB8, 0x00, 0x19, 0x00, 0x08, 0x00, 0x04, 0x00, 0x02, 0x97, 0x00, 0x03, 0x0F]

/-- The fields of `G` as V2 lists them. -/
def goldenFrame : Frame :=
  { frameLength := 28, pm1Cf1 := 3, pm25Cf1 := 4, pm10Cf1 := 7, pm1Atmo := 3, pm25Atmo := 4, pm10Atmo := 7
    pm03Count := 720, pm05Count := 184, pm1Count := 25, pm25Count := 8, pm5Count := 4, pm10Count := 2
    reserved := 38656, checksum := 783 }

/-- The 240-bit record `f(G)`. -/
def goldenRecord : BitVec 240 := 0x030F9700000200040008001900B802D0000700040003000700040003001C

/-! ### WellFormed: an ill-formed term for each check (R78) -/

theorem test_wf_reset : (Instr.reset 0).wf = true ∧ (Instr.reset 1).wf = false := by decide +kernel
theorem test_wf_push : (Instr.push 0xFF).wf = true := by decide +kernel
theorem test_wf_decode : (Instr.decode 32 0).wf = true ∧ (Instr.decode 33 0).wf = false := by decide +kernel
theorem test_wf_rdreg_low : (Instr.rdreg 0x05).wf = true ∧ (Instr.rdreg 0x06).wf = false := by decide +kernel
theorem test_wf_rdreg_window :
    (Instr.rdreg 0x1F).wf = false ∧ (Instr.rdreg 0x20).wf = true ∧
    (Instr.rdreg 0x3F).wf = true ∧ (Instr.rdreg 0x40).wf = false := by decide +kernel
theorem test_wf_aqi25 : (Instr.aqi25 0 5).wf = true ∧ (Instr.aqi25 0x80 5).wf = false := by decide +kernel
theorem test_wf_aqi10 : (Instr.aqi10 0 5).wf = true ∧ (Instr.aqi10 1 5).wf = false := by decide +kernel

/-! ### Decoding: a word for each opcode, its bits written out from R75 and R77 -/

theorem test_decode_reset : decodeTableWord 16 0b0000000100000000 = some (.reset 0) := by decide +kernel
theorem test_decode_push : decodeTableWord 16 0b0000001001000010 = some (.push 0x42) := by decide +kernel
theorem test_decode_decode : decodeTableWord 16 0b0000001100000011 = some (.decode 3 0) := by decide +kernel
theorem test_decode_rdreg : decodeTableWord 16 0b0000010000100100 = some (.rdreg 0x24) := by decide +kernel
theorem test_decode_aqi25 : decodeTableWord 16 0b0001000000000000 = some (.aqi25 0 0) := by decide +kernel
theorem test_decode_aqi10 : decodeTableWord 16 0b0001000100000000 = some (.aqi10 0 0) := by decide +kernel

/-- Unassigned opcodes are rejected by the name of their cause (the rows of 2.6 with cause 1). -/
theorem test_decode_unknown :
    [0x0000, 0x0542, 0x0F00, 0x1200, 0xFFFF].map (decodeTableWord 16) = List.replicate 5 none ∧
    decodeCommand { cmd := 0x0542, din64 := 0, dwin := 0 } = .error .unknownOpcode := by decide +kernel

/-- A command takes its operand from the port that R76 names for it, not from the other. -/
theorem test_ports :
    decodeCommand { cmd := 0x0302, din64 := 7, dwin := 9 } = .ok (.decode 2 9) ∧
    decodeCommand { cmd := 0x1100, din64 := 7, dwin := 9 } = .ok (.aqi10 0 7) := by decide +kernel

/-- The words of R85's example expansion and of program P2. -/
theorem test_assembler_words :
    (assemble (.process [0x61, 0x62])).map (·.cmd) = [0x0261, 0x0262] ∧
    (assemble (.aqi25U 4)).map (·.din64) = [0x4010000000000000] ∧
    (assemble (.rdreg (.buf 9))).map (·.cmd) = [0x0429] := by decide +kernel

/-- `f64` of decimals: two entries of R153's table and the subnormal row of 2.3. -/
theorem test_decimals :
    (f64OfDecimal ⟨false, 121, -1⟩).toBits 0 = 0x4028333333333333 ∧
    (f64OfDecimal ⟨false, 5004, -1⟩).toBits 0 = 0x407F466666666666 ∧
    (f64OfDecimal ⟨false, 5, -324⟩).toBits 0 = 0x0000000000000001 := by decide +kernel

/-! ### The frame decoder: rows D-1 to D-15 -/

theorem test_decode_rows_short :
    (frameDecode []).pack = 0x80 ∧ (frameDecode [0x42]).pack = 0x7C ∧ (frameDecode [0x61]).pack = 0x05 ∧
    (frameDecode [0x42, 0x4D]).pack = 0x78 ∧ (frameDecode [0x42, 0x42]).pack = 0x05 ∧
    (frameDecode [0x42, 0x4E]).pack = 0x05 ∧ (frameDecode (golden.take 31)).pack = 0x04 := by decide +kernel

theorem test_decode_rows_whole :
    frameDecode golden = .frame goldenFrame ∧
    frameDecode (golden.take 31 ++ [0x00]) = .frame { goldenFrame with checksum := 768 } ∧
    frameDecode (0x00 :: golden.take 31) = .skip := by decide +kernel

/-- D-10 and D-11, as DECODE responses. -/
theorem test_exec_decode :
    delivers (.decode 32 (dwinOf golden)) State.reset =
      some [response true 0 0x030F9700000200040008001900B802D0000700040003000700040003001C82] ∧
    delivers (.decode 1 (dwinOf golden)) State.reset = some [response true 0 0x7C] := by decide +kernel

/-- D-16. -/
theorem test_exec_decode_length :
    delivers (.decode 33 0) State.reset = some [response false 4 0] := by decide +kernel

/-- `be16` (2.2). -/
theorem test_be16 :
    be16 0x02 0xD0 = 720 ∧ be16 0x97 0x00 = 38656 ∧ be16 0x00 0xFF = 255 ∧ be16 0xFF 0x00 = 65280 := by decide +kernel

/-- `enc(f(G)) = G` (V2). -/
theorem test_enc : enc goldenFrame = golden := by decide +kernel

/-! ### PUSH: rows P-1 to P-10 -/

theorem test_push_marker :
    [pushed 0x42 State.reset, pushed 0x61 State.reset, pushed 0x4D (holding [0x42]),
     pushed 0x42 (holding [0x42]), pushed 0x61 (holding [0x42])] =
    [some ([0x42], 31, [0, 0, 1], 0), some ([], 32, [0, 1, 1], 0x08), some ([0x42, 0x4D], 30, [0, 0, 2], 0),
     some ([0x42], 31, [0, 1, 2], 0x08), some ([], 32, [0, 2, 2], 0x10)] := by decide +kernel

/-- P-10: the frame goes out before the response. -/
theorem test_push_frame :
    pushed 0x0F (holding (golden.take 31)) = some ([], 32, [1, 0, 32], 0x04) ∧
    delivers (.push 0x0F) (holding (golden.take 31)) =
      some [.frame goldenRecord, response true 0 0x1] := by decide +kernel

/-! ### RDREG and RESET: rows K-1 to K-10 -/

theorem test_rdreg :
    delivers (.rdreg 0x02) State.reset = some [response true 0 0x20] ∧
    delivers (.rdreg 0x20) (holding [0x42, 0x4D, 0x00, 0x1C]) = some [response true 0 0x42] ∧
    delivers (.rdreg 0x24) (holding [0x42, 0x4D, 0x00, 0x1C]) = some [response true 0 0] := by decide +kernel

/-- K-6, then program P4's read of STATUS after it. -/
theorem test_rdreg_unassigned :
    (next? (exec (.rdreg 0x06) State.reset)).map (fun t => (t.status.word, t.trace)) =
      some (0x61, [response false 3 0]) := by decide +kernel

/-- K-9: a reset in mid-frame clears ILL and empties the remainder. -/
theorem test_reset :
    (next? (exec (.reset 0) (raiseIllegal .badRegister (holding [0x42, 0x4D])))).map
      (fun t => (remainder t, t.need, t.status.word, t.byteCnt)) = some ([], 32, 0, 0) := by decide +kernel

/-- K-10: nothing is reset. -/
theorem test_reset_immediate :
    (next? (exec (.reset 1) (holding [0x42, 0x4D]))).map
      (fun t => (remainder t, t.status.word, t.trace)) =
      some ([0x42, 0x4D], 0x41, [response false 2 0]) := by decide +kernel

/-! ### AQI: rows of 2.3 -/

/-- 37.0; 12.05, in the gap below bucket 1; 0.15, where the product is exactly 1.5; 35.5, at a low bound. -/
theorem test_aqi25 :
    [0x4042800000000000, 0x402819999999999A, 0x3FC3333333333333, 0x4041C00000000000].map
      (fun c => delivers (.aqi25 0 c) State.reset) =
    [0x405A2C61C4D2F991, 0x4049355555555556, 0x3FEAAAAAAAAAAAAC, 0x40590D758FEE6BAD].map
      (fun a => some [response true 0 a]) := by decide +kernel

/-- The corners of R161: -Inf, the smallest subnormal, 1.797e308, +Inf, a NaN. -/
theorem test_aqi25_corners :
    [0xFFF0000000000000, 0x0000000000000001, 0x7FEFFCD7672F2096, 0x7FF0000000000000, 0x7FF8000000000001].map
      (aqi Config.defaultRom Config.bp25) =
    [0x0000000000000000, 0x0000000000000000, 0x407F400000000000, 0x407F400000000000, 0x7FF8000000000000] := by decide +kernel

/-- A well-formed table whose last range, from about -1.1e308 to 1.7e308, is wider than the largest binary64. -/
def wideTable : Table := #v[
  ⟨0xFFEF000000000000, 0xFFEE000000000000⟩, ⟨0xFFED000000000000, 0xFFEC000000000000⟩,
  ⟨0xFFEB000000000000, 0xFFEA000000000000⟩, ⟨0xFFE9000000000000, 0xFFE8000000000000⟩,
  ⟨0xFFE7000000000000, 0xFFE6000000000000⟩, ⟨0xFFE5000000000000, 0xFFE4000000000000⟩,
  ⟨0xFFE3000000000000, 0x7FEF000000000000⟩]

/-- R161: +Inf and an overflowing product give `IDX[6].high` with such a table too. -/
theorem test_aqi_wide_table :
    [0x7FF0000000000000, 0x7FEFFCD7672F2096].map (aqi { Config.defaultRom with bp25 := wideTable } wideTable) =
    [0x407F400000000000, 0x407F400000000000] := by decide +kernel

/-- 100.0; 425.0 and 425.1, the pair of R163; 505.1. -/
theorem test_aqi10 :
    [0x4059000000000000, 0x407A900000000000, 0x407A91999999999A, 0x407F91999999999A].map
      (fun c => delivers (.aqi10 0 c) State.reset) =
    [0x405251745D1745D2, 0x4072D6F4DE9BD37A, 0x4072D2014BD3EDDB, 0x407911999999999A].map
      (fun a => some [response true 0 a]) := by decide +kernel

/-- `0x11FF`: cause 2. -/
theorem test_aqi10_immediate :
    delivers (.aqi10 0xFF 0) State.reset = some [response false 2 0] := by decide +kernel

/-! ### Witnesses: concrete inputs that meet the hypotheses of each statement, at the boundaries of its clauses -/

theorem test_witness_DecodedCommandEncodes :
    decodeCommand { cmd := 0x1000, din64 := 7, dwin := 9 } = .ok (.aqi25 0 7) := by decide +kernel

theorem test_witness_OpcodeMap :
    [0x00#8, 0x05#8, 0x0F#8, 0x12#8, 0xFF#8].all (· ∉ [0x01#8, 0x02#8, 0x03#8, 0x04#8, 0x10#8, 0x11#8]) := by decide +kernel

theorem test_witness_StepRunsDecodedCommand :
    romWf (atPort [word 0x0242, .powerOn]).rom = true ∧
    (atPort [word 0x0242, .powerOn]).inputs = .command { cmd := 0x0242, din64 := 0, dwin := 0 } :: [.powerOn] ∧
    decodeCommand { cmd := 0x0242, din64 := 0, dwin := 0 } = .ok (.push 0x42) := by decide +kernel

/-- The rows of 2.6 and the boundary words of each cause. -/
theorem test_witness_IllegalWordRaises :
    romWf (atPort [word 0x0321]).rom = true ∧
    (atPort [word 0x0321]).inputs = .command { cmd := 0x0321, din64 := 0, dwin := 0 } :: [] ∧
    [0x0000, 0x0542, 0x0F00, 0x1200, 0xFFFF].map wordCauseCode = List.replicate 5 (some 1) ∧
    [0x0101, 0x1080, 0x1101].map wordCauseCode = List.replicate 3 (some 2) ∧
    [0x0406, 0x041F, 0x0440, 0x04FF].map wordCauseCode = List.replicate 4 (some 3) ∧
    [0x0321, 0x03FF].map wordCauseCode = List.replicate 2 (some 4) := by decide +kernel

theorem test_witness_LegalWordAnswersOk :
    let s : State := { holding (golden.take 31) with inputs := [word 0x020F] }
    romWf s.rom = true ∧ s.inputs = .command { cmd := 0x020F, din64 := 0, dwin := 0 } :: [] ∧ s.len.toNat < 32 ∧
    wordCauseCode 0x020F = none ∧
    [0x0100, 0x0200, 0x02FF, 0x0300, 0x0320, 0x0400, 0x0405, 0x0420, 0x043F, 0x1000, 0x1100].all
      (wordCauseCode · = none) := by decide +kernel

theorem test_witness_IdleStepChangesNothing :
    romWf (atPort []).rom = true ∧ (atPort []).inputs = [] := by decide +kernel

theorem test_witness_PowerOnResets :
    romWf (atPort [.powerOn]).rom = true ∧ (atPort [.powerOn]).inputs = .powerOn :: [] := by decide +kernel

/-- Entries that do not ascend; a top of the output range that is not 500. -/
theorem test_witness_IllFormedTablesRefused :
    romWf { Config.defaultRom with bp10 := Vector.replicate 7 ⟨0, 0⟩ } = false ∧
    romWf { Config.defaultRom with idx := Config.idx.set 6 ⟨0x4079100000000000, 0x4080000000000000⟩ } = false := by
  decide +kernel

theorem test_witness_ResetCommand : (1 : Byte) ≠ 0#8 ∧ (0xFF : Byte) ≠ 0#8 := by decide +kernel

/-- A register number in each clause, at the ends of the clause. -/
theorem test_witness_RdregCommand :
    [0x20#8, 0x3F#8].all (fun r => 0x20 ≤ r.toNat ∧ r.toNat ≤ 0x3F) ∧
    [0x06#8, 0x1F#8, 0x40#8, 0xFF#8].all (fun r => 0x05 < r.toNat ∧ ¬(0x20 ≤ r.toNat ∧ r.toNat ≤ 0x3F)) := by decide +kernel

/-- Marker bytes missing at 0 and at 1, the last length that is short, the first that is whole. -/
theorem test_witness_DecodeClassifies :
    (0x61 : Byte) ≠ 0x42#8 ∧ (0x42 : Byte) ≠ 0x4D#8 ∧
    ([] : List Byte).length + 2 < 32 ∧ (List.replicate 29 (0 : Byte)).length + 2 < 32 ∧
    32 ≤ (List.replicate 30 (0 : Byte)).length + 2 := by decide +kernel

theorem test_witness_DecodeBounds : 32 ≤ golden.length ∧ 32 ≤ (golden ++ [0x42]).length := by decide +kernel

theorem test_witness_DecodePrefixStable :
    frameDecode [0x61] = .skip ∧ frameDecode golden = .frame goldenFrame ∧
    frameDecode [0x42, 0x4D] = .needMoreBytes 30 ∧ 2 ≤ ([0x42, 0x4D] : List Byte).length ∧
    (List.replicate 29 (0 : Byte)).length < 30 ∧ 30 ≤ (List.replicate 30 (0 : Byte)).length := by decide +kernel

theorem test_witness_DecodeResultRecord :
    (DecodeResult.needMoreBytes 1).pack = 0x04 ∧ (DecodeResult.needMoreBytes 32).pack = 0x80 := by decide +kernel

theorem test_witness_DecodeCommand : (32#8).toNat ≤ 32 ∧ (0#8).toNat ≤ 32 ∧ 32 < (33#8).toNat := by decide +kernel

/-- Nothing written, and the whole window written; an offset beyond a short one. -/
theorem test_witness_WrittenWindowReadsBack :
    ([] : List Byte).length ≤ 32 ∧ golden.length ≤ 32 ∧ (golden.take 31).length ≤ 31 := by decide +kernel

theorem test_witness_DrainFollowsDecoder :
    frameDecode (golden ++ [0x61]) = .frame goldenFrame ∧ frameDecode [0x61, 0x42] = .skip ∧
    frameDecode [] = .needMoreBytes 32 ∧ frameDecode (golden.take 31) = .needMoreBytes 1 := by decide +kernel

theorem test_witness_PushCommand :
    (State.reset).len.toNat < 32 ∧ (withLen 31).len.toNat < 32 := by decide +kernel

theorem test_witness_PushFrame : (next? (exec (.push 0x42) (holding [0x42]))).isSome = true := by decide +kernel

theorem test_witness_PushBeyondWindowFaults : 32 ≤ (withLen 32).len.toNat ∧ 32 ≤ (withLen 63).len.toNat := by
  decide +kernel

/-- A remainder of each shape of R25, at the ends of the range of its length. -/
theorem test_witness_PushTransitions :
    ∀ n ∈ [0, 1, 2, 30, 31], windowShape (holding (golden.take n)) ∧ (holding (golden.take n)).len.toNat = n := by
  decide +kernel

theorem test_witness_PushWorkBounded :
    windowShape (holding [0x42]) ∧ (drain (remainder (holding [0x42]) ++ [0x61])).skips = 2 := by decide +kernel

theorem test_witness_FragmentationInvariance :
    frameDecode [] = .needMoreBytes 32 ∧ frameDecode [0x42] = .needMoreBytes 31 ∧
    frameDecode (golden.take 31) = .needMoreBytes 1 := by decide +kernel

/-- An empty chunk, and one that completes a frame, each followed by a command that is not part of it. -/
theorem test_witness_ProcessIsChunkProcess :
    let s : State := { holding (golden.take 30) with inputs := [word 0x0203, word 0x020F, word 0x0401] }
    s.Inv ∧ s.inputs = assembleAll [.process [0x03, 0x0F]] ++ [word 0x0401] ∧
    s.inputs = assembleAll [.process []] ++ s.inputs := by
  decide +kernel

theorem test_witness_AqiCommands : (0x01 : Byte) ≠ 0#8 ∧ (0x80 : Byte) ≠ 0#8 := by decide +kernel

/-- -1.0, -Inf, -0.0 and +0.0. -/
theorem test_witness_NonPositiveGivesZero :
    [0xBFF0000000000000#64, 0xFFF0000000000000#64, 0x8000000000000000#64, 0x0000000000000000#64].all fun c =>
      F64.ofBits c ≠ .nan ∧ (c.msb = true ∨ c = 0) := by decide +kernel

/-- The smallest and the largest payload, of both signs. -/
theorem test_witness_NanGivesNanOut :
    [0x7FF0000000000001#64, 0x7FFFFFFFFFFFFFFF#64, 0xFFF0000000000001#64, 0xFFFFFFFFFFFFFFFF#64].all fun c =>
      (c.extractLsb' 52 11).toNat = 2047 ∧ c.extractLsb' 0 52 ≠ 0 := by decide +kernel

theorem test_witness_OverflowGivesTopIndex :
    romWf Config.defaultRom = true ∧ romWf { Config.defaultRom with bp25 := wideTable } = true ∧
    Config.bp25 ∈ [Config.bp25, Config.bp10] ∧
    [0x7FEFFCD7672F2096#64, 0x7FF0000000000000#64].all fun c => mul64 (F64.ofBits c) ten = .inf false := by decide +kernel

/-- A value above the low bound of bucket 6, and one above none. -/
theorem test_witness_BucketIsLargestBelow :
    lt64 (F64.ofBits Config.bp25[6].low) (F64.inf false) = true ∧
    (∀ j : Fin 7, lt64 (F64.ofBits Config.bp25[j].low) F64.zero = false) := by decide +kernel

theorem test_witness_SameRoundingSameIndex :
    le64 (F64.ofBits 0x402819999999999A) F64.zero = false ∧ le64 (F64.ofBits 0x4028333333333333) F64.zero = false ∧
    roundTenths (F64.ofBits 0x402819999999999A) = roundTenths (F64.ofBits 0x4028333333333333) := by decide +kernel

theorem test_witness_IndexClampedAbove : romWf Config.defaultRom = true := by decide +kernel

theorem test_witness_DefaultIndexInRange :
    Config.bp10 ∈ [Config.bp25, Config.bp10] ∧
    [0x7FF0000000000000#64, 0xFFF0000000000000#64, 0x0000000000000001#64, 0x7FEFFFFFFFFFFFFF#64].all fun c =>
      F64.ofBits c ≠ .nan := by decide +kernel

/-- The least rounded value of each clause, and +Inf. -/
theorem test_witness_DefaultIndexSaturates :
    le64 (F64.ofBits 0x407F466666666666) (F64.ofBits 0x407F466666666666) = true ∧
    le64 (F64.ofBits 0x4082E00000000000) (F64.ofBits 0x4082E00000000000) = true ∧
    le64 (F64.ofBits 0x4082E00000000000) (F64.inf false) = true := by decide +kernel

/-- `2^53 + 1` halfway between two data goes to the even one; the midpoint above the largest datum overflows, and one unit less does not. An exact zero sum and difference, and a division by zero. -/
theorem test_witness_RoundsToNearestEven :
    0 < 1 ∧ F64.round false (2 ^ 53 + 1) 1 = .fin false (2 ^ 53) ∧
    F64.round true ((2 ^ 54 - 1) * 2 ^ 2044) 1 = .inf true ∧
    F64.round false ((2 ^ 54 - 1) * 2 ^ 2044 - 1) 1 = .fin false ((2 ^ 53 - 1) * 2 ^ 2045) ∧
    signed true 5 + signed false 5 = 0 ∧ signed true 5 - signed true 5 = 0 ∧
    add64 (.fin true 0) (.fin true 0) = .fin true 0 ∧ sub64 (.fin true 5) (.fin true 5) = .fin false 0 ∧
    div64 (.fin true 3) (.fin false 0) = .inf true := by decide +kernel

theorem test_witness_BitPatternsRoundTrip :
    [0x8000000000000000#64, 0x000FFFFFFFFFFFFF#64, 0x0010000000000000#64, 0x7FEFFFFFFFFFFFFF#64,
     0xFFF0000000000000#64].all fun b => F64.ofBits b ≠ .nan := by decide +kernel

/-- 0.5 and -2.5 are ties, and go away from zero; the largest finite datum is its own rounding. -/
theorem test_witness_RoundHalfAwayExact :
    F64.ofBits 0x3FE0000000000000 = .fin false (2 ^ 1073) ∧ rha (F64.ofBits 0x3FE0000000000000) = .fin false (2 ^ 1074) ∧
    rha (F64.ofBits 0xC004000000000000) = .fin true (3 * 2 ^ 1074) ∧
    2 ^ 52 * 2 ^ 1074 ≤ (2 ^ 53 - 1) * 2 ^ 2045 := by decide +kernel

theorem test_witness_StepKeepsInvariant :
    (holding (golden.take 31)).Inv ∧
    (next? (step { holding (golden.take 31) with inputs := [word 0x020F] })).isSome = true := by decide +kernel

theorem test_witness_StepNeverStops : ({ holding [0x42] with inputs := [word 0xFFFF] } : State).Inv := by decide +kernel

theorem test_witness_RomsNeverChange : (next? (step (atPort [word 0x0100]))).isSome = true := by decide +kernel

/-- ILL and MAL both set, and a command that is not RESET at the port. MAL is 1 in no run (R107). -/
theorem test_witness_StickyBitsClearedOnlyByReset :
    let s : State := { atPort [word 0x0242] with status := { State.reset.status with ill := true, mal := true } }
    (next? (step s)).isSome = true ∧ (∀ rest, s.inputs ≠ .powerOn :: rest) ∧
    (∀ c rest, s.inputs = .command c :: rest → c.cmd ≠ 0x0100) ∧ s.status.ill = true ∧ s.status.mal = true := by
  refine ⟨by decide +kernel, nofun, ?_, rfl, rfl⟩
  rintro c rest h
  cases h
  decide

/-- A command with another opcode is no PUSH. -/
theorem test_other_opcode_no_push (i : Instr) (h : i.opcode ≠ 0x02) : ∀ b, i ≠ .push b := by
  rintro b rfl
  exact h rfl

theorem test_witness_OnlyPushAndResetChangeTheStream :
    ∀ i ∈ [Instr.reset 1, .decode 2 0, .decode 33 0, .rdreg 0x20, .rdreg 0x40, .aqi25 0 1, .aqi25 1 1, .aqi10 0 1],
      (i.opcode ≠ 0x02) ∧ i ≠ .reset 0 ∧ (next? (exec i (holding [0x42]))).isSome = true := by decide +kernel

theorem test_witness_ReadsAreIdempotent :
    ∀ i ∈ [Instr.decode 32 0, .rdreg 0x00, .rdreg 0x3F, .aqi25 0 1, .aqi10 0 1],
      i.wf = true ∧ i.opcode ≠ 0x02 ∧ i ≠ .reset 0 := by decide +kernel

/-- Two blocks with the same ROMs and different streams. -/
theorem test_witness_StatelessUnitsIgnoreTheStream :
    (holding [0x42]).rom = State.reset.rom ∧ holding [0x42] ≠ State.reset := by decide +kernel

theorem test_witness_InstancesAreIndependent :
    ([atPort [word 0x0242], State.reset] : Platform)[0]? = some (atPort [word 0x0242]) ∧
    (∃ q, stepInstance 0 [atPort [word 0x0242], State.reset] = .next q) :=
  ⟨rfl, _, rfl⟩

end Sys2Proof.Tests
end

section
/-! Rounding to binary64 (00_scope.md R12): a finite datum is a 53-bit significand times a power of two, and `F64.round` picks the nearest multiple of the last place of the exact value, which no datum beats. -/

namespace Sys2Proof.Machine

/-! ### The last place of a magnitude -/

theorem lt_two_pow_of_ulpShift (n : Nat) : n < 2 ^ (53 + ulpShift n) := by
  refine Nat.lt_log2_self.trans_le (Nat.pow_le_pow_right two_pos ?_)
  unfold ulpShift
  omega

theorem two_pow_le_of_ulpShift_pos {n : Nat} (h : 0 < ulpShift n) : 2 ^ (52 + ulpShift n) ≤ n := by
  unfold ulpShift at *
  rw [Nat.add_sub_cancel' (by omega)]
  refine Nat.log2_self_le ?_
  rintro rfl
  simp at h

theorem ulpShift_eq_zero {n : Nat} (h : n < 2 ^ 53) : ulpShift n = 0 := by
  by_contra hne
  have := two_pow_le_of_ulpShift_pos (Nat.pos_of_ne_zero hne)
  have := Nat.pow_le_pow_right two_pos (show 53 ≤ 52 + ulpShift n by omega)
  omega

/-- A magnitude with 53 significant bits has its last place where the scaling puts it. -/
theorem ulpShift_mul_two_pow {m : Nat} (e : Nat) (hlo : 2 ^ 52 ≤ m) (hhi : m < 2 ^ 53) :
    ulpShift (m * 2 ^ e) = e := by
  have hlog : (m * 2 ^ e).log2 = 52 + e := by
    rw [Nat.log2_eq_iff (Nat.mul_pos (by omega) (Nat.two_pow_pos e)).ne', Nat.add_right_comm, pow_add, pow_add]
    exact ⟨Nat.mul_le_mul_right _ hlo, Nat.mul_lt_mul_of_pos_right hhi (Nat.two_pow_pos e)⟩
  rw [ulpShift, hlog, Nat.add_sub_cancel_left]

theorem le_ulpShift {n k : Nat} (h : 2 ^ (52 + k) ≤ n) : k ≤ ulpShift n := by
  have := (Nat.le_log2 (Nat.pos_of_ne_zero (by rintro rfl; simp at h) |>.ne')).2 h
  unfold ulpShift
  omega

/-! ### Finite binary64 magnitudes -/

/-- The pattern with sign 0, biased exponent `e` and fraction `f` (R56). -/
theorem ofBits_ofNat {e f : Nat} (he : e < 2047) (hf : f < 2 ^ 52) :
    F64.ofBits (BitVec.ofNat 64 (e * 2 ^ 52 + f)) =
      .fin false (if e = 0 then f else (2 ^ 52 + f) * 2 ^ (e - 1)) := by
  have hnat : (BitVec.ofNat 64 (e * 2 ^ 52 + f)).toNat = e * 2 ^ 52 + f := by
    rw [BitVec.toNat_ofNat]
    omega
  have hmsb : (BitVec.ofNat 64 (e * 2 ^ 52 + f)).msb = false := by
    rw [BitVec.msb_eq_decide, hnat, decide_eq_false_iff_not]
    omega
  have hexp : ((BitVec.ofNat 64 (e * 2 ^ 52 + f)).extractLsb' 52 11).toNat = e := by
    rw [BitVec.extractLsb'_toNat, hnat, Nat.shiftRight_eq_div_pow]
    omega
  have hfrac : ((BitVec.ofNat 64 (e * 2 ^ 52 + f)).extractLsb' 0 52).toNat = f := by
    rw [BitVec.extractLsb'_toNat, hnat, Nat.shiftRight_zero]
    omega
  unfold F64.ofBits
  simp only [hmsb, hexp, hfrac, pow2_eq, he.ne, if_false]
  split_ifs <;> rfl

/-- A finite datum has at most 53 significant bits. -/
theorem isDatumMag.exists_significand {mag : Nat} (h : isDatumMag mag) :
    ∃ m k : Nat, m < 2 ^ 53 ∧ mag = m * 2 ^ k := by
  obtain ⟨b, hb⟩ := h
  have hf := (b.extractLsb' 0 52).isLt
  unfold F64.ofBits at hb
  simp only [pow2_eq] at hb
  split_ifs at hb
  · exact ⟨mag, 0, by rw [← (F64.fin.inj hb).2]; omega, (mul_one mag).symm⟩
  · exact ⟨_, _, by omega, (F64.fin.inj hb).2.symm⟩

theorem isDatumMag_of_subnormal {m : Nat} (h : m < 2 ^ 52) : isDatumMag m :=
  ⟨_, by simpa using ofBits_ofNat (e := 0) (by omega) h⟩

theorem isDatumMag_of_normal {m k : Nat} (hlo : 2 ^ 52 ≤ m) (hhi : m < 2 ^ 53) (hk : k ≤ 2045) :
    isDatumMag (m * 2 ^ k) := by
  refine ⟨_, (ofBits_ofNat (e := k + 1) (f := m - 2 ^ 52) (by omega) (by omega)).trans ?_⟩
  rw [if_neg k.succ_ne_zero, Nat.add_sub_cancel' hlo, Nat.add_sub_cancel]

/-! ### Rounding to a whole number -/

theorem roundHalfEven_le {num den n : Nat} (hd : 0 < den) (h : num ≤ n * den) : roundHalfEven num den ≤ n := by
  obtain ⟨hle, -, -⟩ := roundHalfEven_spec num den hd
  by_contra hlt
  have := Nat.mul_le_mul_left den (Nat.lt_of_not_le hlt)
  linarith [mul_assoc 2 den (roundHalfEven num den)]

theorem le_roundHalfEven {num den n : Nat} (hd : 0 < den) (h : n * den ≤ num) : n ≤ roundHalfEven num den := by
  obtain ⟨-, hge, -⟩ := roundHalfEven_spec num den hd
  by_contra hlt
  have := Nat.mul_le_mul_left den (Nat.lt_of_not_le hlt)
  linarith [mul_assoc 2 den (roundHalfEven num den)]

/-- No whole number is nearer to `num / den` than its rounding, and another as near leaves the rounding even. -/
theorem roundHalfEven_nearest {num den : Nat} (hd : 0 < den) {k : Nat} (hk : k ≠ roundHalfEven num den) :
    let q := roundHalfEven num den
    let err := ((num : Int) - q * den).natAbs
    let errOther := ((num : Int) - k * den).natAbs
    err < errOther ∨ (err = errOther ∧ q % 2 = 0) := by
  obtain ⟨hle, hge, htie⟩ := roundHalfEven_spec num den hd
  generalize roundHalfEven num den = q at *
  have hgap : k * den + den ≤ q * den ∨ q * den + den ≤ k * den := by
    rcases Nat.lt_or_gt_of_ne hk with h | h
    · exact .inl (by simpa [Nat.succ_mul] using Nat.mul_le_mul_right den h)
    · exact .inr (by simpa [Nat.succ_mul] using Nat.mul_le_mul_right den h)
  have hq : 2 * den * q = 2 * (q * den) := by ring
  rw [hq] at hle hge htie
  dsimp only
  simp only [← Nat.cast_mul]
  generalize q * den = a at *
  generalize k * den = b at *
  omega

/-! ### The magnitude that `F64.round` answers with -/

/-- `num / den` in units of its last place, to the nearest whole number. -/
def roundedSig (num den : Nat) : Nat := roundHalfEven num (den * 2 ^ ulpShift (num / den))

/-- `num / den` to the nearest multiple of its last place. -/
def roundedMag (num den : Nat) : Nat := roundedSig num den * 2 ^ ulpShift (num / den)

theorem round_eq (neg : Bool) (num den : Nat) :
    F64.round neg num den =
      if overflowMag ≤ roundedMag num den then .inf neg else .fin neg (roundedMag num den) := by
  simp only [F64.round, pow2_eq, roundedMag, roundedSig]
  congr

theorem overflowMag_eq : overflowMag = 2 ^ (54 + 2044) := pow2_eq (54 + 2044)

section
variable {num den : Nat} (hd : 0 < den)
include hd

theorem roundedSig_le : roundedSig num den ≤ 2 ^ 53 := by
  refine roundHalfEven_le (Nat.mul_pos hd (Nat.two_pow_pos _)) ?_
  have h := (Nat.div_lt_iff_lt_mul hd).1 (lt_two_pow_of_ulpShift (num / den))
  rw [pow_add, mul_right_comm, mul_assoc] at h
  exact h.le

theorem le_roundedSig (h : 0 < ulpShift (num / den)) : 2 ^ 52 ≤ roundedSig num den := by
  refine le_roundHalfEven (Nat.mul_pos hd (Nat.two_pow_pos _)) ?_
  have h := (Nat.le_div_iff_mul_le hd).1 (two_pow_le_of_ulpShift_pos h)
  rwa [pow_add, mul_right_comm, mul_assoc] at h

/-- A datum that is no multiple of the last place of `num / den` lies in a lower binade, below `num / den`. -/
theorem isDatumMag.multiple_or_lt {other : Nat} (h : isDatumMag other) :
    (∃ k, other = k * 2 ^ ulpShift (num / den)) ∨
      (other < 2 ^ 52 * 2 ^ ulpShift (num / den) ∧ 2 ^ 52 * 2 ^ ulpShift (num / den) * den ≤ num) := by
  obtain ⟨m, k, hm, rfl⟩ := h.exists_significand
  generalize he : ulpShift (num / den) = e
  rcases le_or_gt e k with hek | hke
  · exact .inl ⟨m * 2 ^ (k - e), by rw [mul_assoc, ← pow_add, Nat.sub_add_cancel hek]⟩
  · rw [← pow_add]
    refine .inr ⟨?_, ?_⟩
    · calc m * 2 ^ k < 2 ^ 53 * 2 ^ k := Nat.mul_lt_mul_of_pos_right hm (Nat.two_pow_pos k)
        _ = 2 ^ (53 + k) := (pow_add ..).symm
        _ ≤ 2 ^ (52 + e) := Nat.pow_le_pow_right two_pos (by omega)
    · rw [← Nat.le_div_iff_mul_le hd, ← he]
      exact two_pow_le_of_ulpShift_pos (by omega)

/-- No datum is nearer to `num / den` than `roundedMag`; one as near leaves its last place even. -/
theorem roundedMag_nearest {other : Nat} (h : isDatumMag other) (hne : other ≠ roundedMag num den) :
    let err := ((num : Int) - roundedMag num den * den).natAbs
    let errOther := ((num : Int) - other * den).natAbs
    err < errOther ∨ (err = errOther ∧ roundedSig num den % 2 = 0) := by
  have hmul := h.multiple_or_lt (num := num) hd
  have hpos := Nat.mul_pos hd (Nat.two_pow_pos (ulpShift (num / den)))
  unfold roundedMag roundedSig at *
  generalize 2 ^ ulpShift (num / den) = u at *
  have hscale (k : Nat) : (k : Int) * (u : Int) * den = k * (den * u : Nat) := by push_cast; ring
  rcases hmul with ⟨k, rfl⟩ | ⟨hlt, hle⟩
  · push_cast
    simpa only [hscale] using roundHalfEven_nearest (num := num) hpos (k := k) (by rintro rfl; exact hne rfl)
  · left
    have hlt' := Nat.mul_lt_mul_of_pos_right hlt hd
    have hedge := roundHalfEven_nearest (num := num) hpos (k := 2 ^ 52)
    generalize 2 ^ 52 = c at *
    push_cast
    simp only [← hscale] at hedge
    by_cases hc : c = roundHalfEven num (den * u)
    · subst hc
      zify at hlt' hle
      omega
    · have := hedge hc
      zify at hlt' hle
      omega

/-- A rounding reaches a power of two only from the midpoint below it on. -/
theorem midpoint_le_of_reached {k : Nat} (h : 2 ^ (54 + k) ≤ roundedMag num den) :
    (2 ^ 54 - 1) * 2 ^ k * den ≤ num := by
  rcases le_or_gt (ulpShift (num / den)) (k + 1) with he | he
  · obtain ⟨hle, -, -⟩ := roundHalfEven_spec num _ (Nat.mul_pos hd (Nat.two_pow_pos (ulpShift (num / den))))
    have hu := Nat.pow_le_pow_right two_pos he
    rw [pow_succ'] at hu
    rw [pow_add, roundedMag, roundedSig] at h
    generalize roundHalfEven num _ = q at *
    generalize 2 ^ ulpShift (num / den) = u at *
    have hmag := Nat.mul_le_mul_right den h
    have hulp := Nat.mul_le_mul_right den hu
    rw [show 2 * (den * u) * q = 2 * (q * u * den) by ring, mul_comm den u] at hle
    simp only [mul_assoc] at hmag hulp hle ⊢
    omega
  · have hnum := (Nat.le_div_iff_mul_le hd).1 (two_pow_le_of_ulpShift_pos (by omega : 0 < ulpShift (num / den)))
    refine le_trans (Nat.mul_le_mul_right den ?_) hnum
    calc (2 ^ 54 - 1) * 2 ^ k ≤ 2 ^ 54 * 2 ^ k := Nat.mul_le_mul_right _ (Nat.sub_le ..)
      _ = 2 ^ (54 + k) := (pow_add ..).symm
      _ ≤ 2 ^ (52 + ulpShift (num / den)) := Nat.pow_le_pow_right two_pos (by omega)

/-- From that midpoint on the power is reached; on the midpoint itself because the significand `2 ^ 53 - 1` below it is odd. -/
theorem reached_of_midpoint_le {k : Nat} (h : (2 ^ 54 - 1) * 2 ^ k * den ≤ num) :
    2 ^ (54 + k) ≤ roundedMag num den := by
  have he : k + 1 ≤ ulpShift (num / den) := by
    refine le_ulpShift ((Nat.le_div_iff_mul_le hd).2 (le_trans (Nat.mul_le_mul_right den ?_) h))
    rw [show 52 + (k + 1) = 53 + k by omega, pow_add]
    exact Nat.mul_le_mul_right _ (by omega)
  unfold roundedMag
  rcases he.eq_or_lt with he | he
  · rw [← he, show 54 + k = 53 + (k + 1) by omega, pow_add]
    refine Nat.mul_le_mul_right _ ?_
    rw [roundedSig, ← he]
    obtain ⟨-, hge, htie⟩ := roundHalfEven_spec num _ (Nat.mul_pos hd (Nat.two_pow_pos (k + 1)))
    generalize roundHalfEven num (den * 2 ^ (k + 1)) = q at *
    have hp := Nat.mul_pos (Nat.two_pow_pos k) hd
    rw [show 2 * (den * 2 ^ (k + 1)) * q = 4 * q * (2 ^ k * den) by ring,
      show den * 2 ^ (k + 1) = 2 * (2 ^ k * den) by ring] at hge htie
    rw [mul_assoc] at h
    generalize 2 ^ k * den = p at *
    by_contra hq
    have := Nat.mul_le_mul_right p (show 4 * q ≤ 4 * (2 ^ 53 - 1) by omega)
    have heven := htie (.inr (by omega))
    have := Nat.mul_le_mul_right p (show 4 * q ≤ 4 * (2 ^ 53 - 2) by omega)
    omega
  · calc 2 ^ (54 + k) = 2 ^ 52 * 2 ^ (k + 2) := by rw [← pow_add]; congr 1; omega
      _ ≤ _ := Nat.mul_le_mul (le_roundedSig hd (by omega)) (Nat.pow_le_pow_right two_pos he)

/-- The rounding in normal form: 53 significant bits, or less with its last place at `2 ^ -1074`. -/
theorem roundedMag_normal_form : ∃ m : Nat, roundedMag num den = m * 2 ^ ulpShift (roundedMag num den) ∧
    m < 2 ^ 53 ∧ (2 ^ 52 ≤ m ∨ ulpShift (roundedMag num den) = 0) ∧
    (roundedSig num den % 2 = 0 → m % 2 = 0) := by
  have hhi := roundedSig_le (num := num) hd
  have hlo := le_roundedSig (num := num) hd
  unfold roundedMag
  generalize roundedSig num den = q at *
  generalize ulpShift (num / den) = e at *
  rcases hhi.eq_or_lt with rfl | hhi
  · have hmag : 2 ^ 53 * 2 ^ e = 2 ^ 52 * 2 ^ (e + 1) := by ring
    rw [hmag, ulpShift_mul_two_pow _ le_rfl (by omega)]
    exact ⟨2 ^ 52, rfl, by omega, .inl le_rfl, fun _ => by omega⟩
  · rcases le_or_gt (2 ^ 52) q with hq | hq
    · rw [ulpShift_mul_two_pow e hq hhi]
      exact ⟨q, rfl, hhi, .inl hq, id⟩
    · obtain rfl : e = 0 := by by_contra he; have := hlo (Nat.pos_of_ne_zero he); omega
      rw [pow_zero, mul_one, ulpShift_eq_zero hhi]
      exact ⟨q, (mul_one q).symm, hhi, .inr rfl, id⟩

theorem isDatumMag_roundedMag (h : roundedMag num den < overflowMag) : isDatumMag (roundedMag num den) := by
  obtain ⟨m, hmag, hhi, hlo, -⟩ := roundedMag_normal_form (num := num) hd
  generalize ulpShift (roundedMag num den) = k at *
  rw [hmag] at h ⊢
  rcases le_or_gt (2 ^ 52) m with hm | hm
  · refine isDatumMag_of_normal hm hhi (le_of_not_gt fun hk => h.not_ge ?_)
    calc overflowMag = 2 ^ (54 + 2044) := overflowMag_eq
      _ ≤ 2 ^ (52 + k) := pow_le_pow_right₀ one_le_two (by omega)
      _ = 2 ^ 52 * 2 ^ k := pow_add ..
      _ ≤ m * 2 ^ k := Nat.mul_le_mul_right _ hm
  · obtain rfl : k = 0 := hlo.resolve_left hm.not_ge
    simpa using isDatumMag_of_subnormal hm

theorem roundedMag_even (h : roundedSig num den % 2 = 0) :
    roundedMag num den / 2 ^ ulpShift (roundedMag num den) % 2 = 0 := by
  obtain ⟨m, hmag, -, -, heven⟩ := roundedMag_normal_form (num := num) hd
  rw [Nat.div_eq_of_eq_mul_left (Nat.two_pow_pos _) hmag]
  exact heven h

/-- `F64.round` is rounding to nearest, ties to even, with overflow to infinity (R12). -/
theorem isRounded_round (neg : Bool) : isRounded neg num den (F64.round neg num den) := by
  rw [round_eq]
  refine ⟨fun h => if_pos (overflowMag_eq.trans_le (reached_of_midpoint_le hd h)), fun h => ?_⟩
  have hfin : roundedMag num den < overflowMag :=
    lt_of_not_ge fun hover => h.not_ge (midpoint_le_of_reached hd (overflowMag_eq.symm.trans_le hover))
  refine ⟨_, if_neg hfin.not_ge, isDatumMag_roundedMag hd hfin, fun other hother hne => ?_⟩
  exact (roundedMag_nearest hd hother hne).imp_right (And.imp_right (roundedMag_even hd))

end

theorem signed_not (t : Bool) (b : Nat) : signed (!t) b = -signed t b := by
  cases t <;> simp [signed]

/-- A sum of finite data is exact where it is 0, and rounded once elsewhere. -/
theorem add64_fin_isRounded (s t : Bool) (a b : Nat) :
    if signed s a + signed t b = 0 then add64 (.fin s a) (.fin t b) = .fin (s && t) 0
    else isRounded (decide (signed s a + signed t b < 0)) (signed s a + signed t b).natAbs 1
      (add64 (.fin s a) (.fin t b)) := by
  split_ifs with h
  · exact if_pos h
  · rw [add64]
    simp only [h, if_false]
    exact isRounded_round one_pos _

/-- Settles O48: each operation is by definition its exact result put through `F64.round`, which is rounding to nearest. -/
theorem roundsToNearestEven : Obligations.RoundsToNearestEven := by
  refine ⟨fun neg num den hd => isRounded_round hd neg, fun s t a b => ⟨?_, ?_, add64_fin_isRounded s t a b, ?_⟩⟩
  · exact isRounded_round (pow2_pos 1074) _
  · by_cases hb : b = 0
    · simp [div64, hb]
    · simpa [div64, hb] using isRounded_round (Nat.pos_of_ne_zero hb) _
  · have h := add64_fin_isRounded s (!t) a b
    rw [signed_not, ← sub_eq_add_neg] at h
    exact h

end Sys2Proof.Machine
end

section
/-! The state (10_state.md): where STATUS holds its fields (R27), the reset values (R36), the ROMs that no step writes (R34), and the units that read nothing but their operands and the ROMs (R35). -/

namespace Sys2Proof.Machine

/-! ### STATUS -/

/-- The layout of R27. Beyond bit 7 it reads ILLC past its end, which is 0. -/
theorem Status.getLsbD_word (st : Status) (i : Nat) :
    st.word.getLsbD i =
      if i = 0 then st.ill else if i = 1 then st.mal else if i = 2 then st.frm
      else if i < 5 then st.skp.getLsbD (i - 3) else st.illc.getLsbD (i - 5) := by
  simp only [Status.word, BitVec.getLsbD_or, BitVec.getLsbD_shiftLeft, BitVec.getLsbD_setWidth, BitVec.getLsbD_ofBool]
  match i with
  | 0 | 1 | 2 | 3 | 4 => simp
  | i + 5 =>
    by_cases hi : i < 3
    · simp [show i + 5 < 32 by omega, show i < 32 by omega]
    · simp [BitVec.getLsbD_of_ge st.illc i (Nat.not_lt.mp hi)]

/-- Settles O16: every field is read off the layout of the word, bit by bit. -/
theorem statusWordBits : Obligations.StatusWordBits := by
  intro st
  refine ⟨st.getLsbD_word 0, st.getLsbD_word 1, st.getLsbD_word 2, ?_, ?_, ?_⟩ <;>
    refine BitVec.eq_of_getLsbD_eq fun i hi => ?_ <;>
    rw [BitVec.getLsbD_extractLsb', st.getLsbD_word]
  · simp (disch := omega) [if_pos, if_neg, hi]
  · simp (disch := omega) [if_neg, hi]
  · simp (disch := omega) [if_neg, BitVec.getLsbD_of_ge]

/-! ### The reset values -/

@[simp] theorem Status.word_reset : Status.reset.word = 0 := by decide

/-- R33 on an empty window. -/
theorem readReg_buf_of_len_zero {s : State} (h : s.len = 0) (i : Fin 32) : readReg s (.buf i) = 0 := by
  simp [readReg, h]

/-- Settles O13: the start state and the states after the two sources of reset are all fixed by `resetRegisters`, and with LEN at 0 no window byte is read. -/
theorem resetValues : Obligations.ResetValues := by
  unfold Obligations.ResetValues
  intro values
  have of_reset (t : State) : values (resetRegisters t) :=
    ⟨rfl, rfl, Status.word_reset, rfl, rfl, rfl, readReg_buf_of_len_zero rfl⟩
  refine ⟨of_reset State.reset, fun s => ⟨?_, ?_⟩⟩
  · exact ⟨respond (okResponse 0) (resetRegisters s), rfl, of_reset (respond (okResponse 0) s), rfl⟩
  · exact ⟨powerOn s, rfl, of_reset (powerOn s), rfl⟩

/-! ### The ROMs -/

theorem exec_rom {i : Instr} {s t : State} (h : exec i s = .next t) : t.rom = s.rom := by
  obtain ⟨data, e⟩ | ⟨k, e⟩ | ⟨-, e⟩ | ⟨b, -, -, e⟩ | ⟨b, -, -, e⟩ := exec_cases i s <;> cases e.symm.trans h
  · exact respond_rom _ s
  · exact raiseIllegal_rom k s
  · exact resetRegisters_rom s
  · exact finishPush_rom _ s

/-- Settles O55: of all that a step can do, nothing writes the ROMs. -/
theorem romsNeverChange : Obligations.RomsNeverChange := by
  intro s t h
  obtain ⟨-, e⟩ | ⟨-, -, e⟩ | ⟨-, xs, -, e⟩ | ⟨-, c, xs, i, -, -, e⟩ | ⟨-, c, xs, k, -, -, e⟩ := step_cases s <;>
    have e := e.symm.trans h
  · cases e
  · cases e
    rfl
  · cases e
    exact powerOn_rom _
  · exact (exec_rom e :)
  · cases e
    exact raiseIllegal_rom k _

/-! ### The units that ignore the stream -/

/-- The answer to a DECODE is one and the same from every state. -/
theorem execDecode_answer (n : Byte) (dwin : BitVec 256) :
    ∃ r, ∀ s, ∃ t, execDecode n dwin s = .next t ∧ t.trace = s.trace ++ [.response r] := by
  cases h : lengthCheck n with
  | none => exact ⟨_, fun s => ⟨_, by rw [execDecode, h], respond_trace _ s⟩⟩
  | some k => exact ⟨_, fun s => ⟨_, by rw [execDecode, h], raiseIllegal_trace k s⟩⟩

/-- The answer to an AQI command is one and the same from every state with these ROMs. -/
theorem aqiCommand_answer (rom : Rom) (T : Table) (imm8 : Byte) (c : Bits64) :
    ∃ r, ∀ s, s.rom = rom → ∃ t, aqiCommand T imm8 c s = .next t ∧ t.trace = s.trace ++ [.response r] := by
  cases h : mustBeZero imm8 with
  | none => exact ⟨_, fun s hs => ⟨_, by rw [aqiCommand, h, hs], respond_trace _ s⟩⟩
  | some k => exact ⟨_, fun s _ => ⟨_, by rw [aqiCommand, h], raiseIllegal_trace k s⟩⟩

/-- DECODE, AQI25 and AQI10 each give one answer from all states with the same ROMs (R35). -/
theorem exec_answer_of_stateless (rom : Rom) (n imm8 : Byte) (dwin : BitVec 256) (c : Bits64) :
    ∀ i ∈ [Instr.decode n dwin, .aqi25 imm8 c, .aqi10 imm8 c],
      ∃ r, ∀ s, s.rom = rom → ∃ t, exec i s = .next t ∧ t.trace = s.trace ++ [.response r] := by
  simp only [List.forall_mem_cons, List.not_mem_nil, exec, execAqi25, execAqi10]
  refine ⟨?_, ?_, ?_, nofun⟩
  · obtain ⟨r, h⟩ := execDecode_answer n dwin
    exact ⟨r, fun s _ => h s⟩
  · obtain ⟨r, h⟩ := aqiCommand_answer rom rom.bp25 imm8 c
    exact ⟨r, fun s hs => hs ▸ h s hs⟩
  · obtain ⟨r, h⟩ := aqiCommand_answer rom rom.bp10 imm8 c
    exact ⟨r, fun s hs => hs ▸ h s hs⟩

/-- Settles O59: the one answer is given from both states. -/
theorem statelessUnitsIgnoreTheStream : Obligations.StatelessUnitsIgnoreTheStream := by
  intro s s' n imm8 dwin c hrom i hi
  obtain ⟨r, answer⟩ := exec_answer_of_stateless s'.rom n imm8 dwin c i hi
  obtain ⟨t, ht, htrace⟩ := answer s hrom
  obtain ⟨t', ht', htrace'⟩ := answer s' rfl
  exact ⟨r, t, t', ht, ht', htrace, htrace'⟩

end Sys2Proof.Machine
end

section
/-! The commands and their order (20_memory.md): a step performs the oldest command (R61, R65), every command but PUSH and a legal RESET only reads the stream (R62), and an operand pattern is kept by the datum it stands for (R56). -/

namespace Sys2Proof.Machine

/-! ### Bit patterns and data -/

/-- A pattern is its sign, then its exponent and fraction (R56). -/
theorem bits_eq_of_fields (b : Bits64) :
    BitVec.ofBool b.msb ++
      BitVec.ofNat 63 ((b.extractLsb' 52 11).toNat * 2 ^ 52 + (b.extractLsb' 0 52).toNat) = b := by
  have hlow : BitVec.ofNat 63 ((b.extractLsb' 52 11).toNat * 2 ^ 52 + (b.extractLsb' 0 52).toNat) = b.setWidth 63 := by
    apply BitVec.eq_of_toNat_eq
    rw [BitVec.toNat_ofNat, BitVec.toNat_setWidth, BitVec.extractLsb'_toNat, BitVec.extractLsb'_toNat,
      Nat.shiftRight_eq_div_pow, Nat.shiftRight_zero]
    omega
  rw [hlow, BitVec.ofBool_append]
  exact BitVec.cons_msb_setWidth b

/-- A magnitude below the second binade is its own exponent and fraction bits. -/
theorem magBits_of_lt {m : Nat} (h : m < 2 ^ 53) : magBits m = m := by
  simp [magBits, ulpShift_eq_zero h, pow2_eq]

/-- A magnitude with 53 significant bits: the hidden bit counts as one in the exponent. -/
theorem magBits_mul_two_pow {m : Nat} (e : Nat) (hlo : 2 ^ 52 ≤ m) (hhi : m < 2 ^ 53) :
    magBits (m * 2 ^ e) = e * 2 ^ 52 + m := by
  rw [magBits, ulpShift_mul_two_pow e hlo hhi, pow2_eq, pow2_eq, Nat.mul_div_cancel _ (Nat.two_pow_pos e)]

/-- Settles O49: in each class of patterns the datum's magnitude bits are the pattern's exponent and fraction. -/
theorem bitPatternsRoundTrip : Obligations.BitPatternsRoundTrip := by
  intro nanOut b hnan
  have hfields := bits_eq_of_fields b
  have hfrac := (b.extractLsb' 0 52).isLt
  unfold F64.ofBits at hnan ⊢
  generalize b.msb = neg at *
  generalize (b.extractLsb' 52 11).toNat = e at *
  generalize (b.extractLsb' 0 52).toNat = f at *
  simp only [pow2_eq] at hnan ⊢
  rw [← hfields]
  split_ifs at hnan ⊢ with hexp hinf hsub
  · simp [F64.toBits, pow2_eq, hexp, hinf]
  · exact absurd rfl hnan
  · rw [F64.toBits, magBits_of_lt (by omega), hsub, Nat.zero_mul, Nat.zero_add]
  · have hbits : (e - 1) * 2 ^ 52 + (2 ^ 52 + f) = e * 2 ^ 52 + f := by omega
    rw [F64.toBits, magBits_mul_two_pow _ (by omega) (by omega), hbits]

/-! ### What a command leaves unchanged -/

theorem regOfNumber_eq_none_iff (r : Byte) : regOfNumber r = none ↔ regAssigned r = false := by
  unfold regOfNumber regAssigned
  split
  iterate 6 simp [*]
  case h_7 =>
    simp_all
    omega

/-- A command that is no PUSH and no legal RESET answers with a response alone if its immediate is legal, and raises IllegalCommand if not (R62, R78). -/
theorem exec_cases_of_read {i : Instr} (hpush : ∀ b, i ≠ .push b) (hreset : i ≠ .reset 0) (s : State) :
    (i.wf = true ∧ ∃ data, exec i s = .next (respond (okResponse data) s)) ∨
    (i.wf = false ∧ ∃ k, exec i s = .next (raiseIllegal k s)) := by
  cases i with
  | push b => exact absurd rfl (hpush b)
  | reset imm8 =>
    obtain ⟨rfl, -⟩ | ⟨h, e⟩ := execReset_cases imm8 s
    · exact absurd rfl hreset
    · exact .inr ⟨beq_eq_false_iff_ne.2 h, _, e⟩
  | decode n dwin =>
    obtain ⟨h, e⟩ | ⟨h, e⟩ := execDecode_cases n dwin s
    · exact .inl ⟨decide_eq_true h, _, e⟩
    · exact .inr ⟨decide_eq_false h.not_ge, _, e⟩
  | rdreg r =>
    obtain ⟨reg, h, e⟩ | ⟨h, e⟩ := execRdreg_cases r s
    · refine .inl ⟨Bool.ne_false_iff.1 fun hwf => ?_, _, e⟩
      exact nomatch h.symm.trans ((regOfNumber_eq_none_iff r).2 hwf)
    · exact .inr ⟨(regOfNumber_eq_none_iff r).1 h, _, e⟩
  | aqi25 imm8 c =>
    obtain ⟨h, e⟩ | ⟨h, e⟩ := aqiCommand_cases s.rom.bp25 imm8 c s
    · exact .inl ⟨beq_iff_eq.2 h, _, e⟩
    · exact .inr ⟨beq_eq_false_iff_ne.2 h, _, e⟩
  | aqi10 imm8 c =>
    obtain ⟨h, e⟩ | ⟨h, e⟩ := aqiCommand_cases s.rom.bp10 imm8 c s
    · exact .inl ⟨beq_iff_eq.2 h, _, e⟩
    · exact .inr ⟨beq_eq_false_iff_ne.2 h, _, e⟩

/-- Settles O57: a response writes the trace only, and raising IllegalCommand writes ILL and ILLC besides. -/
theorem onlyPushAndResetChangeTheStream : Obligations.OnlyPushAndResetChangeTheStream := by
  intro i s t hpush hreset h
  obtain ⟨-, data, e⟩ | ⟨hwf, k, e⟩ := exec_cases_of_read hpush hreset s <;> cases e.symm.trans h
  · simp
  · simp [hwf]

/-! ### The step -/

/-- A built block with a command at its port runs that command. -/
theorem step_eq_runCommand {s : State} {c : Command} {rest : List Input} (hrom : romWf s.rom = true)
    (hin : s.inputs = .command c :: rest) : step s = runCommand c { s with inputs := rest } := by
  simp [step, takeInput, hin, whenBuilt, hrom, runInput]

theorem runCommand_of_decode {c : Command} {i : Instr} (h : decodeCommand c = .ok i) (s : State) :
    runCommand c s = exec i s := by
  rw [runCommand, h]

/-- Settles O6: the step runs the command word (R61), and a word that decodes is run by `exec`. -/
theorem stepRunsDecodedCommand : Obligations.StepRunsDecodedCommand :=
  fun _ _ _ _ hrom hin hdec => (step_eq_runCommand hrom hin).trans (runCommand_of_decode hdec _)

end Sys2Proof.Machine
end

section
/-! Encodings (30_encoding.md): command words and their commands (R75 to R79), the answer to a legal word (R80), the records on the ports (R81, R82), the DECODE buffer (R76, R84), and the u16 operands of the pseudo-commands (R86). -/

namespace Sys2Proof.Machine

open Sys2Proof.Laws.EncodedWord (fields_of_append)

/-! ### Command words and commands -/

theorem opField_append_immField (w : BitVec 16) : opField w ++ immField w = w := by
  unfold opField immField
  rw [BitVec.extractLsb'_append_extractLsb'_eq_extractLsb' (by rfl), BitVec.extractLsb'_eq_self]

theorem opcode_mem_map (i : Instr) : i.opcode ∈ [0x01#8, 0x02#8, 0x03#8, 0x04#8, 0x10#8, 0x11#8] := by
  cases i <;> simp [Instr.opcode]

/-- The command word of an opcode and the immediate of a word that holds that opcode. -/
theorem append_immField_of_opField {w : BitVec 16} {op : Byte} (h : (opField w).toNat = op.toNat) :
    op ++ immField w = w := by
  rw [← BitVec.eq_of_toNat_eq h, opField_append_immField]

/-- Settles O2: each arm of the decoder fixes the opcode of the word and passes on the immediate and its own port. -/
theorem decodedCommandEncodes : Obligations.DecodedCommandEncodes := by
  intro c i h
  unfold decodeCommand at h
  split at h
  case h_7 => cases h
  all_goals
    rename_i hop
    cases h
    exact ⟨append_immField_of_opField hop, by trivial⟩

/-- The opcode of a word that decodes is the opcode of its command. -/
theorem opField_of_decode {c : Command} {i : Instr} (h : decodeCommand c = .ok i) : opField c.cmd = i.opcode := by
  rw [← (decodedCommandEncodes c i h).1]
  exact (fields_of_append i.opcode i.imm).1

/-- What the decoder rejects, and why (R79). -/
theorem opField_not_mem_of_error {c : Command} {k : Cause} (h : decodeCommand c = .error k) :
    k = .unknownOpcode ∧ opField c.cmd ∉ [0x01#8, 0x02#8, 0x03#8, 0x04#8, 0x10#8, 0x11#8] := by
  unfold decodeCommand at h
  split at h
  case h_7 =>
    cases h
    simp_all [BitVec.toNat_eq]
  all_goals cases h

/-- Settles O3: on a word put together from its two fields the decoder reads them back; a word that it decodes has the opcode of a command. -/
theorem opcodeMap : Obligations.OpcodeMap := by
  intro op imm8 x v
  refine ⟨?_, ?_, ?_, ?_, ?_, ?_, fun hop => ?_⟩
  case refine_7 =>
    cases h : decodeCommand ⟨op ++ imm8, x, v⟩ with
    | error k => rw [(opField_not_mem_of_error h).1]
    | ok i =>
      have := opField_of_decode h
      rw [(fields_of_append op imm8).1] at this
      exact absurd (this ▸ opcode_mem_map i) hop
  all_goals simp [decodeCommand, fields_of_append]

/-- Settles O1: the word and the ports of an encoded command are those of its row of the opcode map. -/
theorem encodedCommandDecodes : Obligations.EncodedCommandDecodes := by
  intro i
  obtain ⟨hreset, hpush, hdecode, hrdreg, haqi25, haqi10, -⟩ := opcodeMap 0 i.imm i.din64 i.dwin
  cases i with
  | reset imm8 => exact hreset
  | push b => exact hpush
  | decode n dwin => exact hdecode
  | rdreg r => exact hrdreg
  | aqi25 imm8 x => exact haqi25
  | aqi10 imm8 x => exact haqi10

/-- Settles O4: each word is evaluated. -/
theorem specWordsDecode : Obligations.SpecWordsDecode := by
  unfold Obligations.SpecWordsDecode
  decide

/-! ### Legal words -/

theorem wordCauseCode_eq (w : BitVec 16) :
    wordCauseCode w = fieldsCauseCode (opField w).toNat (immField w).toNat := rfl

theorem wordCauseCode_encode (i : Instr) :
    wordCauseCode (encode i).cmd = fieldsCauseCode i.opcode.toNat i.imm.toNat := by
  obtain ⟨hop, himm⟩ := fields_of_append i.opcode i.imm
  rw [wordCauseCode_eq, encode, hop, himm]

theorem fieldsCauseCode_of_zeroImm {op : Nat} (hop : op = 0x01 ∨ op = 0x10 ∨ op = 0x11) (imm8 : Byte) :
    fieldsCauseCode op imm8.toNat = none ↔ imm8 = 0 := by
  simp [fieldsCauseCode, hop, BitVec.toNat_eq]

theorem fieldsCauseCode_decode (n : Nat) : fieldsCauseCode 0x03 n = none ↔ n ≤ 32 := by
  simp [fieldsCauseCode]

theorem fieldsCauseCode_rdreg (r : Byte) : fieldsCauseCode 0x04 r.toNat = none ↔ regAssigned r = true := by
  simp [fieldsCauseCode, regAssigned, or_iff_not_imp_left]

/-- Settles O5: for each opcode the check of the immediate and the row of the cause table are the same condition. -/
theorem wellFormedIffNoCause : Obligations.WellFormedIffNoCause := by
  intro i
  rw [wordCauseCode_encode]
  cases i with
  | push b => exact iff_of_true rfl rfl
  | decode n dwin => exact decide_eq_true_iff.trans (fieldsCauseCode_decode n.toNat).symm
  | rdreg r => exact (fieldsCauseCode_rdreg r).symm
  | reset imm8 | aqi25 imm8 | aqi10 imm8 =>
    exact beq_iff_eq.trans (fieldsCauseCode_of_zeroImm (by simp [Instr.opcode]) imm8).symm

/-- A word that the decoder rejects has cause 1 in the table. -/
theorem wordCauseCode_of_error {c : Command} {k : Cause} (h : decodeCommand c = .error k) :
    wordCauseCode c.cmd = some 1 := by
  obtain ⟨-, hop⟩ := opField_not_mem_of_error h
  simp_all [wordCauseCode_eq, fieldsCauseCode, BitVec.toNat_eq]

/-- A word without a cause is that of a well-formed command (R78, R79). -/
theorem exists_wf_of_no_cause {c : Command} (h : wordCauseCode c.cmd = none) :
    ∃ i, decodeCommand c = .ok i ∧ i.wf = true := by
  cases hdec : decodeCommand c with
  | error k => exact nomatch h.symm.trans (wordCauseCode_of_error hdec)
  | ok i =>
    refine ⟨i, rfl, (wellFormedIffNoCause i).2 ?_⟩
    rwa [(decodedCommandEncodes c i hdec).1]

/-- A well-formed command, with room in the window, delivers its frames and then one response with `ok` (R80). -/
theorem exec_answers_ok_of_wf {i : Instr} {s : State} (hwf : i.wf = true) (hlen : s.len.toNat < 32) :
    ∃ (t : State) (fs : List Frame) (data : BitVec 248), exec i s = .next t ∧ t.inputs = s.inputs ∧
      t.trace = s.trace ++ fs.map (fun f => .frame f.pack) ++ [.response (okResponse data)] := by
  by_cases hpush : ∃ b, i = .push b
  · obtain ⟨b, rfl⟩ := hpush
    obtain ⟨-, e⟩ | ⟨hge, -⟩ := execPush_cases b s
    · exact ⟨_, _, _, e, finishPush_inputs _ s, finishPush_trace _ s⟩
    · omega
  by_cases hreset : i = .reset 0
  · subst hreset
    exact ⟨_, [], 0, rfl, rfl, by simp⟩
  obtain ⟨-, data, e⟩ | ⟨hill, -⟩ := exec_cases_of_read (not_exists.1 hpush) hreset s
  · exact ⟨_, [], data, e, rfl, by simp⟩
  · exact nomatch hwf.symm.trans hill

/-- Settles O8: a word without a cause decodes to a well-formed command, which the step runs. -/
theorem legalWordAnswersOk : Obligations.LegalWordAnswersOk := by
  intro s c rest hrom hin hlen hcause
  obtain ⟨i, hdec, hwf⟩ := exists_wf_of_no_cause hcause
  rw [stepRunsDecodedCommand s c rest i hrom hin hdec]
  exact exec_answers_ok_of_wf hwf hlen

/-! ### Lanes of a record -/

/-- Values shifted into a record one after another, the last first, stand in it as lanes; lanes beyond them are 0. -/
theorem extractLsb'_foldr_lanes {w n : Nat} (vs : List (BitVec w)) {k : Nat} (hk : w * (k + 1) ≤ n) :
    (vs.foldr (fun (v : BitVec w) (later : BitVec n) => later <<< w ||| v.setWidth n) 0).extractLsb' (w * k) w =
      vs.getD k 0 := by
  induction vs generalizing k with
  | nil => simp
  | cons v vs ih =>
    rw [List.foldr_cons]
    cases k with
    | zero =>
      refine BitVec.eq_of_getLsbD_eq fun i hi => ?_
      simp [hi, show i < n by omega]
    | succ k =>
      rw [Nat.mul_add_one, Nat.mul_add_one] at hk
      rw [List.getD_cons_succ, ← ih (by rw [Nat.mul_add_one]; omega), Nat.mul_add_one]
      refine BitVec.eq_of_getLsbD_eq fun i hi => ?_
      have hlow : v.getLsbD (w * k + w + i) = false := v.getLsbD_of_ge _ (by omega)
      have hsub : w * k + w + i - w = w * k + i := by omega
      rw [BitVec.getLsbD_extractLsb', BitVec.getLsbD_extractLsb', BitVec.getLsbD_or, BitVec.getLsbD_shiftLeft,
        BitVec.getLsbD_setWidth, hlow, hsub]
      simp [show w * k + w + i < n by omega, show ¬w * k + w + i < w by omega]

/-- Settles O22: the record is packed lane by lane, `checksum` first. -/
theorem frameRecordLanes : Obligations.FrameRecordLanes := by
  intro f k
  rw [Frame.pack, extractLsb'_foldr_lanes f.fields (by omega)]
  have : k.val < f.fields.length := k.isLt
  rw [List.getD_eq_getElem _ _ this, List.getElem?_eq_getElem this]

theorem dwinByte_dwinOf (bytes : List Byte) {i : Nat} (hi : i < 32) : dwinByte (dwinOf bytes) i = bytes.getD i 0 :=
  extractLsb'_foldr_lanes bytes (by omega)

/-- Settles O26: the port is packed byte by byte. -/
theorem writtenWindowReadsBack : Obligations.WrittenWindowReadsBack := by
  intro bytes hlen
  refine ⟨List.ext_getElem (by simp [dwinBytes]) fun i _ hi => ?_, fun i hle hi => ?_⟩
  · simp only [dwinBytes, List.getElem_map, List.getElem_range]
    rw [dwinByte_dwinOf bytes (by omega), List.getD_eq_getElem _ _ hi]
  · rw [dwinByte_dwinOf bytes hi, List.getD_eq_default _ _ hle]

/-! ### The DecodeResult record -/

/-- R81: the three fields of a packed result stand side by side. -/
theorem resultRecord_fields (tag : BitVec 2) (count : BitVec 6) (frame : BitVec 240) :
    (resultRecord tag count frame).extractLsb' 0 2 = tag ∧ (resultRecord tag count frame).extractLsb' 2 6 = count ∧
      (resultRecord tag count frame).extractLsb' 8 240 = frame := by
  unfold resultRecord
  refine ⟨?_, ?_, ?_⟩ <;> refine BitVec.eq_of_getLsbD_eq fun i hi => ?_
  · simp [hi, show i < 8 by omega, show i < 248 by omega]
  · simp [hi, show 2 + i < 8 by omega, show 2 + i < 248 by omega, show 1 < 2 + i by omega]
  · simp (disch := omega) [BitVec.getLsbD_of_ge]

theorem frameDecode_ne_malformedInput (s : List Byte) : frameDecode s ≠ .malformedInput := by
  obtain ⟨-, e⟩ | ⟨_, _, -, -, e⟩ | ⟨-, e⟩ | ⟨_, _, -, -, e⟩ | ⟨_, -, -, e⟩ | ⟨_, -, -, e⟩ := frameDecode_cases s <;>
    exact e ▸ nofun

/-- Settles O23: each result is packed by `resultRecord`, and the decoder's answers are none of them MalformedInput. -/
theorem decodeResultRecord : Obligations.DecodeResultRecord := by
  refine ⟨fun m _ hm => ?_, resultRecord_fields _ _ _, fun f => resultRecord_fields _ _ _, resultRecord_fields _ _ _,
    frameDecode_ne_malformedInput⟩
  obtain ⟨htag, hcount, hframe⟩ := resultRecord_fields 0b00 (BitVec.ofNat 6 m) 0
  refine ⟨htag, ?_, hframe⟩
  rw [DecodeResult.pack, hcount, BitVec.toNat_ofNat]
  omega

/-! ### Whole numbers as binary64 -/

/-- A whole number below `2 ^ 53` is a datum. -/
theorem isDatumMag_of_nat {n : Nat} (h : n < 2 ^ 53) : isDatumMag (n * 2 ^ 1074) := by
  rcases Nat.eq_zero_or_pos n with rfl | hpos
  · rw [Nat.zero_mul]
    exact isDatumMag_of_subnormal (by omega)
  have hlo := Nat.log2_self_le hpos.ne'
  have hhi := Nat.lt_log2_self (n := n)
  have hlog : n.log2 ≤ 52 := Nat.le_of_lt_succ ((Nat.log2_lt hpos.ne').2 h)
  obtain ⟨d, hd⟩ := Nat.exists_eq_add_of_le hlog
  have : n * 2 ^ 1074 = n * 2 ^ d * 2 ^ (1074 - d) := by
    rw [mul_assoc, ← pow_add, Nat.add_sub_cancel' (by omega)]
  rw [this]
  refine isDatumMag_of_normal ?_ ?_ (by omega)
  · rw [hd, pow_add]
    exact Nat.mul_le_mul_right _ hlo
  · rw [show 53 = n.log2 + 1 + d by omega, pow_add]
    exact Nat.mul_lt_mul_of_pos_right hhi (Nat.two_pow_pos d)

/-- An exact value that is a datum is not changed by rounding. -/
theorem isRounded.eq_of_isDatumMag {neg : Bool} {mag : Nat} {x : F64} (h : isRounded neg mag 1 x)
    (hmag : isDatumMag mag) (hlt : mag < (2 ^ 54 - 1) * 2 ^ 2044) : x = .fin neg mag := by
  obtain ⟨m, rfl, -, hnear⟩ := h.2 (by rwa [mul_one])
  by_contra hne
  have := hnear mag hmag (by rintro rfl; exact hne rfl)
  simp only [Nat.cast_one, mul_one, sub_self] at this
  exact hne (by congr; omega)

theorem f64OfNat_eq {n : Nat} (h : n < 2 ^ 53) : f64OfNat n = .fin false (n * 2 ^ 1074) := by
  rw [f64OfNat, f64OfRat, pow2_eq]
  refine (isRounded_round one_pos false).eq_of_isDatumMag (isDatumMag_of_nat h) ?_
  exact Nat.mul_lt_mul_of_lt_of_le (by omega) (pow_le_pow_right₀ one_le_two (by omega)) (by positivity)

/-- Writing a datum's bits and reading them gives the datum back. -/
theorem ofBits_toBits_of_isDatumMag (nanOut : Bits64) {mag : Nat} (h : isDatumMag mag) :
    F64.ofBits ((F64.fin false mag).toBits nanOut) = .fin false mag := by
  obtain ⟨b, hb⟩ := h
  rw [← hb, bitPatternsRoundTrip nanOut b (by rw [hb]; nofun)]

/-- Settles O51: a u16 is a whole number below `2 ^ 53`, so the conversion is exact. -/
theorem sixteenBitFieldsConvertExactly : Obligations.SixteenBitFieldsConvertExactly := by
  intro v
  have hv : v.toNat < 2 ^ 53 := v.isLt.trans (by omega)
  refine ⟨rfl, rfl, ?_⟩
  rw [f64OfNat_eq hv, ofBits_toBits_of_isDatumMag _ (isDatumMag_of_nat hv)]

end Sys2Proof.Machine
end

section
/-! The frame decoder (40_frame_decoder.md): what R101 answers for each buffer, the wire bytes of a frame (R140), and the DECODE command (R110). -/

namespace Sys2Proof.Machine

/-! ### The classification -/

/-- Settles O17: each clause is a branch of the decoder, in the order of its checks. -/
theorem decodeClassifies : Obligations.DecodeClassifies := by
  refine ⟨rfl, fun b0 b1 t => ⟨fun hfirst => ?_, rfl, fun hsecond => ?_, fun hshort => ?_, fun hlong => ?_⟩⟩
  · exact if_pos hfirst
  · exact if_pos hsecond
  · exact if_pos hshort
  · exact if_neg (Nat.not_lt.2 hlong)

/-! ### The wire bytes of a frame -/

theorem be16_bytes (v : U16) : be16 (v.extractLsb' 8 8) (v.extractLsb' 0 8) = v := by
  rw [be16, BitVec.extractLsb'_append_extractLsb'_eq_extractLsb' (by rfl), BitVec.extractLsb'_eq_self]

@[simp] theorem enc_length (f : Frame) : (enc f).length = 32 := rfl

/-- The parser finds the fields of a frame at the offsets where `enc` puts them (R121, R140). -/
theorem parse_enc (f : Frame) : parse (enc f) = f := by
  cases f
  simp [parse, fieldAt, enc, Frame.fields, u16Bytes, be16_bytes]

/-- R140, R108: the wire bytes of a frame decode to it, whatever follows them. -/
theorem frameDecode_enc_append (f : Frame) (t : List Byte) : frameDecode (enc f ++ t) = .frame f := by
  obtain ⟨-, hcases⟩ := decodeClassifies
  obtain ⟨-, -, -, -, hlong⟩ := hcases 0 0 (f.fields.flatMap u16Bytes ++ t)
  have hframe : frameDecode (enc f ++ t) = .frame (parse (enc f)) := hlong (by simp [Frame.fields, u16Bytes])
  rw [hframe, parse_enc]

theorem dwinBytes_dwinOf_enc (f : Frame) : dwinBytes 32 (dwinOf (enc f)) = enc f := by
  obtain ⟨hbytes, -⟩ := writtenWindowReadsBack (enc f) (enc_length f).le
  rwa [enc_length] at hbytes

/-! ### The lanes of a packed result -/

/-- The first byte of a packed result is its count and its tag (R81). -/
theorem resultRecord_head (tag : BitVec 2) (count : BitVec 6) (frame : BitVec 240) :
    (resultRecord tag count frame).extractLsb' 0 8 = count ++ tag := by
  obtain ⟨htag, hcount, -⟩ := resultRecord_fields tag count frame
  have hsplit := BitVec.extractLsb'_append_extractLsb'_eq_extractLsb' (x := resultRecord tag count frame)
    (start₁ := 0) (len₁ := 2) (start₂ := 2) (len₂ := 6) rfl
  rw [hcount, htag] at hsplit
  exact hsplit.symm

/-- A range of bits within a range of bits. -/
theorem extractLsb'_extractLsb' {w : Nat} (x : BitVec w) {start start' len len' : Nat} (h : start' + len' ≤ len) :
    (x.extractLsb' start len).extractLsb' start' len' = x.extractLsb' (start + start') len' := by
  refine BitVec.eq_of_getLsbD_eq fun i hi => ?_
  simp [hi, show start' + i < len by omega, Nat.add_assoc]

/-- Each lane of a packed Frame holds its field (R81, R82). -/
theorem extractLsb'_pack_frame (f : Frame) (k : Fin 15) :
    f.fields[k.val]? = some ((DecodeResult.frame f).pack.extractLsb' (8 + 16 * k.val) 16) := by
  obtain ⟨-, -, hframe⟩ := resultRecord_fields 0b10 32 f.pack
  rw [frameRecordLanes f k, ← hframe, extractLsb'_extractLsb' _ (by omega), DecodeResult.pack]

/-! ### The DECODE command -/

/-- Settles O25: the two answers of `execDecode`, with the buffer and the effect of IllegalCommand written out. It has a namespace of its own because the decoder of command words is called `decodeCommand` as well. -/
theorem FrameDecoder.decodeCommand : Obligations.DecodeCommand := by
  intro s n dwin
  obtain ⟨h, e⟩ | ⟨h, e⟩ := execDecode_cases n dwin s
  · exact ⟨fun _ => e, fun hn => absurd h hn.not_ge⟩
  · exact ⟨fun hn => absurd hn h.not_ge, fun _ => e⟩

/-- Settles O27: the port reads back the wire bytes, which decode to the frame, and the fields of its packed result are read one by one. -/
theorem decodeCommandReturnsFrame : Obligations.DecodeCommandReturnsFrame := by
  intro s f
  have hdecode : frameDecode (dwinBytes 32 (dwinOf (enc f))) = .frame f := by
    rw [dwinBytes_dwinOf_enc, ← (enc f).append_nil, frameDecode_enc_append]
  obtain ⟨hlegal, -⟩ := FrameDecoder.decodeCommand s 32 (dwinOf (enc f))
  have hexec : exec (.decode 32 (dwinOf (enc f))) s =
      .next (respond (okResponse (frameDecode (dwinBytes 32 (dwinOf (enc f)))).pack) s) := hlegal (by decide)
  rw [hdecode] at hexec
  exact ⟨_, hexec, resultRecord_head 0b10 32 f.pack, extractLsb'_pack_frame f⟩

end Sys2Proof.Machine
end

section
/-! The big-endian deserializer (41_deserializer.md): the value and the two bytes of `be16` (R120), and the fields of a parsed frame (R121). -/

namespace Sys2Proof.Machine

/-- The high byte stands above the low byte, so the two do not overlap and their sum is their bitwise or. -/
theorem toNat_be16 (hi lo : Byte) : (be16 hi lo).toNat = hi.toNat * 256 + lo.toNat := by
  rw [be16, BitVec.toNat_append, ← Nat.shiftLeft_add_eq_or_of_lt lo.isLt, Nat.shiftLeft_eq]

/-- Settles O20: the value is a sum of bytes that do not overlap, and an appended word reads back its two halves. -/
theorem bigEndianRead : Obligations.BigEndianRead := fun hi lo =>
  ⟨toNat_be16 hi lo, BitVec.extractLsb'_append_eq_left, BitVec.extractLsb'_append_eq_right⟩

/-- Field `k` of a whole frame lies within its 32 bytes, so the two reads are not defaulted (R121). -/
theorem fieldAt_toList (w : Vector Byte 32) (k : Fin 15) :
    fieldAt w.toList k = be16 w[2 + 2 * k.val] w[3 + 2 * k.val] := by
  have hlen : w.toList.length = 32 := w.length_toList
  rw [fieldAt, List.getD_eq_getElem _ _ (by omega), List.getD_eq_getElem _ _ (by omega),
    Vector.getElem_toList, Vector.getElem_toList]

/-- Settles O21: `parse` gives each name its own `k`, in the order of R71. -/
theorem parsedFieldsInOrder : Obligations.ParsedFieldsInOrder := fun w =>
  ⟨fieldAt_toList w 0, fieldAt_toList w 1, fieldAt_toList w 2, fieldAt_toList w 3, fieldAt_toList w 4,
    fieldAt_toList w 5, fieldAt_toList w 6, fieldAt_toList w 7, fieldAt_toList w 8, fieldAt_toList w 9,
    fieldAt_toList w 10, fieldAt_toList w 11, fieldAt_toList w 12, fieldAt_toList w 13, fieldAt_toList w 14⟩

end Sys2Proof.Machine
end

section
/-! The AQI unit (42_aqi.md): comparing data (R12), the check of the tables (R151), rounding half away from zero (R156), the bucket (R157), the clamp (R159), and the two AQI commands (R164, R165). -/

namespace Sys2Proof.Machine

/-! ### Comparing data -/

/-- Where a datum lies on the line of values, in units of `2 ^ -1074`; what a NaN is given is never looked at. -/
def F64.value : F64 → EInt
  | .nan       => ⊥
  | .inf true  => ⊥
  | .inf false => ⊤
  | .fin s mag => signed s mag

/-- The ordered comparison is that of the values (R12). -/
theorem lt64_iff (x y : F64) : lt64 x y = true ↔ x ≠ .nan ∧ y ≠ .nan ∧ x.value < y.value := by
  match x, y with
  | .nan, _ => simp [lt64]
  | .inf _, .nan | .fin _ _, .nan => simp [lt64]
  | .inf s, .inf t => cases s <;> cases t <;> simp [lt64, F64.value]
  | .inf s, .fin _ _ => cases s <;> simp [lt64, F64.value, bot_lt_iff_ne_bot]
  | .fin _ _, .inf t => cases t <;> simp [lt64, F64.value, lt_top_iff_ne_top]
  | .fin _ _, .fin _ _ => simp [lt64, F64.value]

theorem le64_iff (x y : F64) : le64 x y = true ↔ x ≠ .nan ∧ y ≠ .nan ∧ x.value ≤ y.value := by
  match x, y with
  | .nan, _ => simp [le64]
  | .inf _, .nan | .fin _ _, .nan => simp [le64]
  | .inf s, .inf t => cases s <;> cases t <;> simp [le64, F64.value]
  | .inf s, .fin _ _ => cases s <;> simp [le64, F64.value]
  | .fin _ _, .inf t => cases t <;> simp [le64, F64.value]
  | .fin _ _, .fin _ _ => simp [le64, F64.value]

theorem lt64_irrefl (x : F64) : lt64 x x = false := by
  rw [Bool.eq_false_iff, Ne, lt64_iff]
  exact fun ⟨_, _, hlt⟩ => lt_irrefl _ hlt

theorem lt64_trans {x y z : F64} (hxy : lt64 x y = true) (hyz : lt64 y z = true) : lt64 x z = true := by
  obtain ⟨hx, -, hlt⟩ := (lt64_iff x y).1 hxy
  obtain ⟨-, hz, hlt'⟩ := (lt64_iff y z).1 hyz
  exact (lt64_iff x z).2 ⟨hx, hz, hlt.trans hlt'⟩

/-- The data that compare equal to a finite datum are those with its signed magnitude. -/
theorem le64_both_iff (x : F64) (s : Bool) (a : Nat) :
    (le64 x (.fin s a) = true ∧ le64 (.fin s a) x = true) ↔ ∃ t b, x = .fin t b ∧ signed t b = signed s a := by
  rw [le64_iff, le64_iff]
  constructor
  · rintro ⟨⟨hx, -, hle⟩, -, -, hge⟩
    have hvalue := le_antisymm hle hge
    match x with
    | .nan => exact absurd rfl hx
    | .inf true => exact nomatch hvalue
    | .inf false => exact nomatch hvalue
    | .fin t b => exact ⟨t, b, rfl, WithBotTop.coe_injective hvalue⟩
  · rintro ⟨t, b, rfl, h⟩
    have hvalue : (F64.fin t b).value = (F64.fin s a).value := by rw [F64.value, F64.value, h]
    exact ⟨⟨nofun, nofun, hvalue.le⟩, nofun, nofun, hvalue.ge⟩

theorem signed_eq_zero_iff (t : Bool) (b : Nat) : signed t b = 0 ↔ b = 0 := by
  cases t <;> simp [signed]

/-- A positive value has one sign and one magnitude. -/
theorem signed_eq_pos_iff {a : Nat} (ha : 0 < a) (t : Bool) (b : Nat) :
    signed t b = a ↔ t = false ∧ b = a := by
  cases t <;> simp [signed]
  omega

/-- The datum of a pattern is a NaN, or has the pattern's sign and is an infinity or a finite magnitude (R56). -/
theorem ofBits_cases (b : Bits64) :
    F64.ofBits b = .nan ∨ F64.ofBits b = .inf b.msb ∨ ∃ mag, isDatumMag mag ∧ F64.ofBits b = .fin b.msb mag := by
  have hexp := (b.extractLsb' 52 11).isLt
  have hfrac := (b.extractLsb' 0 52).isLt
  unfold F64.ofBits
  simp only [pow2_eq]
  split_ifs
  · exact .inr (.inl rfl)
  · exact .inl rfl
  · exact .inr (.inr ⟨_, isDatumMag_of_subnormal hfrac, rfl⟩)
  · exact .inr (.inr ⟨_, isDatumMag_of_normal (by omega) (by omega) (by omega), rfl⟩)

theorem le64_zero_of_msb {c : Bits64} (hneg : c.msb = true) (hnan : F64.ofBits c ≠ .nan) :
    le64 (F64.ofBits c) F64.zero = true := by
  obtain h | h | ⟨mag, -, h⟩ := ofBits_cases c
  · exact absurd h hnan
  · simp [h, hneg, le64, F64.zero]
  · simp [h, hneg, le64, F64.zero, signed]

/-! ### The constants of the unit -/

theorem ofBits_zero : F64.ofBits 0 = F64.zero := by decide

/-- `IDX_MIN` is zero (R6). -/
theorem ofBits_idxMin : F64.ofBits Config.idxMin = .fin false 0 := ofBits_zero

/-- `IDX_MAX` is 500 (R6). -/
theorem ofBits_idxMax : F64.ofBits Config.idxMax = .fin false (500 * 2 ^ 1074) := by decide +kernel

/-- The multiplier of R155 is the pattern of 10.0. -/
theorem ten_eq_ofBits : ten = F64.ofBits 0x4024000000000000 := by
  rw [ten, f64OfNat_eq (by omega)]
  decide +kernel

/-! ### The configuration check -/

theorem mem_buckets (i : Fin 7) : i ∈ buckets := by
  revert i
  decide

/-- R151 on one table: every bucket is finite, ascends, and ends below the next. -/
theorem tableWf_iff (t : Table) : tableWf t = true ↔ ∀ i : Fin 7,
    (lowOf t i).isFinite = true ∧ (highOf t i).isFinite = true ∧ lt64 (lowOf t i) (highOf t i) = true ∧
      ∀ j : Fin 7, j.val = i.val + 1 → lt64 (highOf t i) (lowOf t j) = true := by
  have next_iff (i : Fin 7) :
      (if h : i.val + 1 < 7 then lt64 (highOf t i) (lowOf t ⟨i.val + 1, h⟩) else true) = true ↔
        ∀ j : Fin 7, j.val = i.val + 1 → lt64 (highOf t i) (lowOf t j) = true := by
    split_ifs with h
    · exact ⟨fun hlt j hj => by rwa [Fin.ext (b := ⟨i.val + 1, h⟩) hj], fun hall => hall _ rfl⟩
    · exact iff_of_true rfl fun j hj => by omega
  simp only [tableWf, List.all_eq_true, mem_buckets, true_imp_iff, Bool.and_eq_true, next_iff, and_assoc]

/-- The two comparisons of a bound with `IDX_MIN` accept both zeros. -/
theorem le64_idxMin_iff (x : F64) :
    (le64 x (F64.ofBits Config.idxMin) = true ∧ le64 (F64.ofBits Config.idxMin) x = true) ↔ ∃ z, x = .fin z 0 := by
  rw [ofBits_idxMin, le64_both_iff]
  simp [signed_eq_zero_iff, show signed false 0 = 0 from rfl]

/-- The two comparisons of a bound with `IDX_MAX` accept 500 alone. -/
theorem le64_idxMax_iff (x : F64) :
    (le64 x (F64.ofBits Config.idxMax) = true ∧ le64 (F64.ofBits Config.idxMax) x = true) ↔
      x = .fin false (500 * 2 ^ 1074) := by
  have hpos : 0 < 500 * 2 ^ 1074 := by positivity
  rw [ofBits_idxMax, le64_both_iff]
  generalize 500 * 2 ^ 1074 = a at *
  simp [show signed false a = a from rfl, signed_eq_pos_iff hpos]

/-- Settles O12: the check is the conjunction of R151's conditions on the three tables and on the two ends of the output range. -/
theorem configurationCheck : Obligations.ConfigurationCheck := by
  intro rom
  simp only [romWf, Bool.and_eq_true, tableWf_iff, and_assoc, le64_idxMax_iff]
  rw [← and_assoc (a := le64 (lowOf rom.idx 0) _ = true), le64_idxMin_iff]
  simp only [List.forall_mem_cons, List.not_mem_nil, false_imp_iff, implies_true, and_true, and_assoc]
  rfl

/-- The top of the output range of a well-formed table set is 500. -/
theorem highOf_idx_of_romWf {rom : Rom} (h : romWf rom = true) : highOf rom.idx 6 = .fin false (500 * 2 ^ 1074) := by
  obtain ⟨-, -, hmax⟩ := (configurationCheck rom).1 h
  exact hmax

/-! ### Rounding half away from zero -/

/-- The magnitude of a finite datum of either sign. -/
theorem isDatumMag_of_ofBits {b : Bits64} {neg : Bool} {mag : Nat} (h : F64.ofBits b = .fin neg mag) :
    isDatumMag mag := by
  obtain e | e | ⟨mag', hmag, e⟩ := ofBits_cases b <;> cases e.symm.trans h
  exact hmag

/-- With its 53 significant bits at `2 ^ e` or above, a datum is a multiple of `2 ^ e`. -/
theorem isDatumMag.multiple_of_le {mag e : Nat} (h : isDatumMag mag) (hle : 2 ^ 52 * 2 ^ e ≤ mag) :
    ∃ n, mag = n * 2 ^ e := by
  obtain ⟨m, k, hm, rfl⟩ := h.exists_significand
  have hek : e ≤ k := by
    by_contra hlt
    refine hle.not_gt ?_
    calc m * 2 ^ k < 2 ^ 53 * 2 ^ k := Nat.mul_lt_mul_of_pos_right hm (Nat.two_pow_pos k)
      _ = 2 ^ (53 + k) := (pow_add ..).symm
      _ ≤ 2 ^ (52 + e) := Nat.pow_le_pow_right two_pos (by omega)
      _ = 2 ^ 52 * 2 ^ e := pow_add ..
  exact ⟨m * 2 ^ (k - e), by rw [mul_assoc, ← pow_add, Nat.sub_add_cancel hek]⟩

/-- The number of units `u` nearest to a magnitude, a tie going up: `floor(|x| + 1/2)` (R156). -/
def halfUp (u mag : Nat) : Nat := (2 * mag + u) / (2 * u)

theorem rha_fin (neg : Bool) (mag : Nat) : rha (.fin neg mag) = .fin neg (halfUp (2 ^ 1074) mag * 2 ^ 1074) := by
  have hhalf : 2 * mag + 2 ^ 1074 = 2 * (mag + 2 ^ 1073) := by
    rw [mul_add, show 1074 = 1073 + 1 from rfl, pow_succ']
  rw [rha, pow2_eq, pow2_eq, halfUp, hhalf, Nat.mul_div_mul_left _ _ two_pos]

/-- `halfUp u mag ≤ |x| + 1/2 < halfUp u mag + 1`, doubled and scaled. -/
theorem halfUp_floor {u : Nat} (hu : 0 < u) (mag : Nat) :
    2 * halfUp u mag * u ≤ 2 * mag + u ∧ 2 * mag < 2 * halfUp u mag * u + u := by
  have hdiv := Nat.div_add_mod' (2 * mag + u) (2 * u)
  have hmod := Nat.mod_lt (2 * mag + u) (Nat.mul_pos two_pos hu)
  rw [mul_right_comm, mul_comm, halfUp]
  omega

theorem halfUp_multiple {u : Nat} (hu : 0 < u) (n : Nat) : halfUp u (n * u) = n := by
  rw [halfUp, mul_left_comm, add_comm, Nat.add_mul_div_right _ _ (Nat.mul_pos two_pos hu),
    Nat.div_eq_of_lt (by omega), zero_add]

theorem halfUp_lt {u mag : Nat} (h : mag < 2 ^ 52 * u) : halfUp u mag < 2 ^ 53 :=
  Nat.div_lt_of_lt_mul (by omega)

/-- From `2 ^ 52` units on a datum is its own rounding. -/
theorem isDatumMag.halfUp_of_le {mag e : Nat} (h : isDatumMag mag) (hle : 2 ^ 52 * 2 ^ e ≤ mag) :
    halfUp (2 ^ e) mag * 2 ^ e = mag := by
  obtain ⟨n, rfl⟩ := h.multiple_of_le hle
  rw [halfUp_multiple (pow_pos two_pos e)]

/-- The rounding of a datum is a datum. -/
theorem isDatumMag_halfUp {mag : Nat} (h : isDatumMag mag) : isDatumMag (halfUp (2 ^ 1074) mag * 2 ^ 1074) := by
  rcases Nat.lt_or_ge mag (2 ^ 52 * 2 ^ 1074) with hlt | hge
  · exact isDatumMag_of_nat (halfUp_lt hlt)
  · rwa [h.halfUp_of_le hge]

/-- Settles O50: a finite datum is rounded to `halfUp` of its magnitude, which stays below `2 ^ 53` or is the magnitude itself. -/
theorem roundHalfAwayExact : Obligations.RoundHalfAwayExact := by
  refine ⟨rfl, fun _ => rfl, fun b neg mag hb => ?_⟩
  have hmag := isDatumMag_of_ofBits hb
  obtain ⟨hle, hlt⟩ := halfUp_floor (u := 2 ^ 1074) (by positivity) mag
  exact ⟨halfUp (2 ^ 1074) mag, by rw [hb, rha_fin], isDatumMag_halfUp hmag, hle, hlt, hmag.halfUp_of_le⟩

/-! ### The bucket -/

/-- Going up a list, the last index that satisfies `p`, if one does. -/
theorem foldl_last_cases {n : Nat} (p : Fin n → Bool) (l : List (Fin n)) (hl : l.Pairwise (· < ·)) (i : Fin n) :
    let k := l.foldl (fun i j => if p j then j else i) i
    (k = i ∧ ∀ j ∈ l, p j = false) ∨ (k ∈ l ∧ p k = true ∧ ∀ j ∈ l, p j = true → j ≤ k) := by
  induction l generalizing i with
  | nil => exact .inl ⟨rfl, nofun⟩
  | cons a l ih =>
    obtain ⟨hfirst, hl⟩ := List.pairwise_cons.1 hl
    rw [List.foldl_cons]
    obtain ⟨hk, hnone⟩ | ⟨hmem, hp, hmax⟩ := ih hl (if p a then a else i)
    · cases ha : p a with
      | false => exact .inl ⟨by simpa [ha] using hk, List.forall_mem_cons.2 ⟨ha, hnone⟩⟩
      | true =>
        rw [if_pos ha] at hk
        simp only [if_true, hk]
        exact .inr ⟨.head l, ha, List.forall_mem_cons.2
          ⟨fun _ => le_rfl, fun j hj hp => absurd hp (Bool.eq_false_iff.1 (hnone j hj))⟩⟩
    · exact .inr ⟨.tail a hmem, hp, List.forall_mem_cons.2 ⟨fun _ => (hfirst _ hmem).le, hmax⟩⟩

/-- R157: the bucket is 0 and no low bound lies below `r`, or it is the largest index whose low bound does. -/
theorem bucketOf_cases (t : Table) (r : F64) :
    (bucketOf t r = 0 ∧ ∀ j, lt64 (lowOf t j) r = false) ∨
      (lt64 (lowOf t (bucketOf t r)) r = true ∧ ∀ j, lt64 (lowOf t j) r = true → j ≤ bucketOf t r) := by
  have h := foldl_last_cases (fun j => lt64 (lowOf t j) r) buckets (by decide) 0
  simp only [mem_buckets, true_imp_iff, true_and] at h
  exact h

/-- The low bounds of a well-formed table ascend. -/
theorem lt64_lowOf_of_lt {t : Table} (h : tableWf t = true) {i j : Fin 7} (hij : i < j) :
    lt64 (lowOf t i) (lowOf t j) = true := by
  have : IsTrans F64 (fun x y => lt64 x y = true) := ⟨fun _ _ _ => lt64_trans⟩
  refine (Fin.liftFun_iff_succ (fun x y => lt64 x y = true)).2 (fun k => ?_) hij
  obtain ⟨-, -, hrange, hnext⟩ := (tableWf_iff t).1 h k.castSucc
  exact lt64_trans hrange (hnext k.succ rfl)

/-- Settles O42: the bucket is the last index of the scan that qualifies, and in a well-formed table the lower bounds are lower still. -/
theorem bucketIsLargestBelow : Obligations.BucketIsLargestBelow := by
  intro t r
  refine ⟨fun j hj => ?_, ?_, fun hwf hbucket j hj => ?_⟩
  · obtain ⟨-, hnone⟩ | ⟨-, hmax⟩ := bucketOf_cases t r
    · exact absurd hj (Bool.eq_false_iff.1 (hnone j))
    · exact hmax j hj
  · exact (bucketOf_cases t r).symm.imp_left And.left
  · obtain rfl | hlt := hj.eq_or_lt
    · exact hbucket
    · exact lt64_trans (lt64_lowOf_of_lt hwf hlt) hbucket

/-! ### The index -/

/-- Settles O39: step 1 answers before any table is read. -/
theorem nonPositiveGivesZero : Obligations.NonPositiveGivesZero := by
  intro rom t c hnan hc
  have hle : le64 (F64.ofBits c) F64.zero = true := by
    obtain hneg | rfl := hc
    · exact le64_zero_of_msb hneg hnan
    · decide
  rw [aqi, aqiValue, if_pos hle]
  rfl

theorem not_gt64_clampTop (idx : Table) (a : F64) : gt64 (clampTop idx a) (highOf idx 6) = false := by
  unfold clampTop
  split_ifs with h
  · exact lt64_irrefl _
  · exact Bool.eq_false_iff.2 h

/-- Every rounded value gives an index that is not above the last output range, with any tables. -/
theorem not_gt64_indexOfRounded (idx t : Table) (r : F64) : gt64 (indexOfRounded idx t r) (highOf idx 6) = false := by
  unfold indexOfRounded
  split_ifs
  · exact lt64_irrefl _
  · exact not_gt64_clampTop idx _

/-- Settles O44: the two branches of R159 are not above the top, and neither is the zero of R154, because the top is 500. -/
theorem indexClampedAbove : Obligations.IndexClampedAbove := by
  intro rom t c hrom
  change gt64 _ (highOf rom.idx 6) = false
  unfold aqiValue
  split_ifs
  · rw [highOf_idx_of_romWf hrom]
    decide +kernel
  · exact not_gt64_indexOfRounded _ _ _

/-! ### The two commands -/

/-- The index on bit patterns: the zero of R154, or `indexOfRounded` of the value rounded with the pattern of 10.0. -/
theorem aqi_eq (rom : Rom) (t : Table) (c : Bits64) :
    aqi rom t c =
      if le64 (F64.ofBits c) (F64.ofBits 0) then 0x0000000000000000
      else F64.toBits rom.nanOut (indexOfRounded rom.idx t
        (div64 (rha (mul64 (F64.ofBits c) (F64.ofBits 0x4024000000000000))) (F64.ofBits 0x4024000000000000))) := by
  rw [aqi, aqiValue, ofBits_zero, roundTenths, ten_eq_ofBits, apply_ite (F64.toBits rom.nanOut)]
  rfl

/-- Settles O38: the two answers of `aqiCommand`, with the steps of the index written out. -/
theorem aqiCommands : Obligations.AqiCommands := by
  intro s imm8 c x c10 r top index
  have hindex (t : Table) : aqi s.rom t c = index t := aqi_eq s.rom t c
  have legal (t : Table) : aqiCommand t 0 c s = .next (respond (okResponse ((index t).setWidth 248)) s) := by
    rw [← hindex]
    rfl
  have illegal (himm : imm8 ≠ 0) (t : Table) : aqiCommand t imm8 c s = .next (raiseIllegal .nonzeroImm s) := by
    obtain ⟨h, -⟩ | ⟨-, e⟩ := aqiCommand_cases t imm8 c s
    · exact absurd h himm
    · exact e
  refine ⟨legal s.rom.bp25, legal s.rom.bp10, fun himm => ?_⟩
  exact List.forall_mem_cons.2 ⟨illegal himm s.rom.bp25, List.forall_mem_singleton.2 (illegal himm s.rom.bp10)⟩

end Sys2Proof.Machine
end

section
/-! The stream reassembler (43_reassembler.md): the drain as a loop of decoder evaluations (R183 to R186), how it ends, where its bytes go (R194), and what a PUSH writes and leaves alone (R181). -/

namespace Sys2Proof.Machine

/-! ### The drain -/

/-- The decoder asks for more only on a buffer shorter than a frame, and for as many bytes as it lacks. -/
theorem length_of_frameDecode_needMoreBytes {s : List Byte} {m : Nat} (h : frameDecode s = .needMoreBytes m) :
    s.length < 32 ∧ m = 32 - s.length := by
  obtain ⟨rfl, e⟩ | ⟨_, _, -, -, e⟩ | ⟨rfl, e⟩ | ⟨_, _, -, -, e⟩ | ⟨_, -, hlt, e⟩ | ⟨_, -, -, e⟩ := frameDecode_cases s <;>
    cases e.symm.trans h
  · decide
  · decide
  · exact ⟨hlt, rfl⟩

theorem length_of_frameDecode_frame {s : List Byte} {f : Frame} (h : frameDecode s = .frame f) : 32 ≤ s.length := by
  obtain ⟨-, e⟩ | ⟨_, _, -, -, e⟩ | ⟨-, e⟩ | ⟨_, _, -, -, e⟩ | ⟨_, -, -, e⟩ | ⟨_, -, hle, -⟩ := frameDecode_cases s
  case inr.inr.inr.inr.inr => exact hle
  all_goals cases e.symm.trans h

/-- One turn on a Frame (R185). -/
theorem drain_of_frame {s : List Byte} {f : Frame} (h : frameDecode s = .frame f) :
    drain s = (drain (s.drop 32)).addFrame f := by
  have := length_of_frameDecode_frame h
  rw [drain_eq_drainLoop s.length (s.drop 32) (by simp; omega)]
  simp [drain, drainLoop, h]

/-- One turn on a Skip (R184). -/
theorem drain_of_skip {s : List Byte} (h : frameDecode s = .skip) : drain s = (drain (s.drop 1)).addSkip := by
  have := length_pos_of_frameDecode s (by simp [h])
  rw [drain_eq_drainLoop s.length (s.drop 1) (by simp; omega)]
  simp [drain, drainLoop, h]

/-- The last turn (R186). -/
theorem drain_of_needMoreBytes {s : List Byte} {m : Nat} (h : frameDecode s = .needMoreBytes m) :
    drain s = { frames := [], skips := 0, rest := s, stop := .needMoreBytes m } := by
  simp [drain, drainLoop, h]

/-- Settles O28: the fields of the drain after one turn. -/
theorem drainFollowsDecoder : Obligations.DrainFollowsDecoder := by
  refine fun s => ⟨fun f h => ?_, fun h => ?_, fun m h => ?_⟩
  · rw [drain_of_frame h]
    exact ⟨rfl, rfl, rfl, rfl⟩
  · rw [drain_of_skip h]
    exact ⟨rfl, rfl, rfl, rfl⟩
  · rw [drain_of_needMoreBytes h]
    exact ⟨rfl, rfl, rfl, rfl⟩

/-- The induction along the turns of a drain: what its last turn establishes, and the turns before it keep, holds of every buffer and its drain. -/
theorem drain_induction {P : List Byte → Drain → Prop}
    (frame : ∀ s f, frameDecode s = .frame f → P (s.drop 32) (drain (s.drop 32)) → P s ((drain (s.drop 32)).addFrame f))
    (skip : ∀ s, frameDecode s = .skip → P (s.drop 1) (drain (s.drop 1)) → P s (drain (s.drop 1)).addSkip)
    (needMoreBytes : ∀ s m, frameDecode s = .needMoreBytes m →
      P s { frames := [], skips := 0, rest := s, stop := .needMoreBytes m })
    (s : List Byte) : P s (drain s) := by
  induction hn : s.length using Nat.strong_induction_on generalizing s with
  | _ n ih =>
    subst hn
    cases e : frameDecode s with
    | frame f =>
      have := length_of_frameDecode_frame e
      rw [drain_of_frame e]
      exact frame s f e (ih (s.drop 32).length (by simp; omega) _ rfl)
    | skip =>
      have := length_pos_of_frameDecode s (by simp [e])
      rw [drain_of_skip e]
      exact skip s e (ih (s.drop 1).length (by simp; omega) _ rfl)
    | needMoreBytes m =>
      rw [drain_of_needMoreBytes e]
      exact needMoreBytes s m e
    | malformedInput => exact absurd e (frameDecode_ne_malformedInput s)

/-- A drain stops on the decoder's answer for what it leaves: the last turn does, and the turns before it touch neither. -/
theorem drain_stops_on_rest (s : List Byte) :
    ∃ m, frameDecode (drain s).rest = .needMoreBytes m ∧ (drain s).stop = .needMoreBytes m :=
  drain_induction (P := fun _ d => ∃ m, frameDecode d.rest = .needMoreBytes m ∧ d.stop = .needMoreBytes m)
    (fun _ _ _ ih => ih) (fun _ _ ih => ih) (fun _ m h => ⟨m, h, rfl⟩) s

/-- Settles O29: the decoder asks for more only on a short buffer, and for what a frame lacks. -/
theorem drainEndsNeedingMore : Obligations.DrainEndsNeedingMore := by
  intro s
  obtain ⟨m, hrest, hstop⟩ := drain_stops_on_rest s
  obtain ⟨hlt, rfl⟩ := length_of_frameDecode_needMoreBytes hrest
  exact ⟨hlt, hstop, hrest⟩

/-- Settles O30: each turn moves the bytes it drops into one more frame or one more skip. -/
theorem drainAccountsForBytes : Obligations.DrainAccountsForBytes := by
  refine drain_induction (P := fun s d => s.length = 32 * d.frames.length + d.skips + d.rest.length)
    (fun s f h ih => ?_) (fun s h ih => ?_) fun s m h => ?_
  · have := length_of_frameDecode_frame h
    simp only [Drain.addFrame, List.length_drop, List.length_cons] at ih ⊢
    omega
  · have := length_pos_of_frameDecode s (by simp [h])
    simp only [Drain.addSkip, List.length_drop] at ih ⊢
    omega
  · simp

/-! ### PUSH -/

theorem drain_rest_length_lt (s : List Byte) : (drain s).rest.length < 32 := (drainEndsNeedingMore s).1

theorem drain_stop (s : List Byte) : (drain s).stop = .needMoreBytes (32 - (drain s).rest.length) :=
  (drainEndsNeedingMore s).2.1

/-- R187 is never met, so no PUSH sets MAL. -/
@[simp] theorem drain_stop_malformed (s : List Byte) : (drain s).stop.malformed = false := by
  rw [drain_stop]
  rfl

theorem pushData_drain (s : List Byte) :
    pushData (drain s) = BitVec.ofNat 248 (drain s).frames.length ||| BitVec.ofNat 248 (drain s).skips <<< 1 := by
  simp [pushData]

theorem finishPush_drain_len (bytes : List Byte) (s : State) :
    (finishPush (drain bytes) s).len.toNat = (drain bytes).rest.length := by
  have := drain_rest_length_lt bytes
  simp only [finishPush_len, BitVec.toNat_ofNat]
  omega

theorem remainder_finishPush_drain (bytes : List Byte) (s : State) :
    remainder (finishPush (drain bytes) s) = (drain bytes).rest :=
  remainder_of_stored _ _ s.buf (drain_rest_length_lt bytes).le (finishPush_buf _ s) (finishPush_len _ s)

theorem finishPush_drain_need (bytes : List Byte) (s : State) :
    (finishPush (drain bytes) s).need.toNat = 32 - (drain bytes).rest.length := by
  simp only [finishPush_need, drain_stop, needAfter, BitVec.toNat_ofNat]
  omega

/-- With room in the window, PUSH finishes on the drain of the remainder with the byte appended. -/
theorem exec_push_of_room {s : State} (b : Byte) (h : s.len.toNat < 32) :
    exec (.push b) s = .next (finishPush (drain (remainder s ++ [b])) s) := by
  obtain ⟨-, e⟩ | ⟨hge, -⟩ := execPush_cases b s
  · exact e
  · omega

/-- A PUSH that answers had room in the window. -/
theorem eq_finishPush_of_exec_push {s t : State} {b : Byte} (h : exec (.push b) s = .next t) :
    t = finishPush (drain (remainder s ++ [b])) s := by
  obtain ⟨-, e⟩ | ⟨-, e⟩ := execPush_cases b s <;> cases e.symm.trans h
  rfl

/-- Settles O31: the fields of the finished PUSH. -/
theorem pushCommand : Obligations.PushCommand := by
  intro s b hroom d data
  refine ⟨finishPush d s, exec_push_of_room b hroom, remainder_finishPush_drain _ s, finishPush_drain_len _ s,
    finishPush_drain_need _ s, finishPush_byteCnt d s, finishPush_frameCnt d s, finishPush_skipCnt d s, ?_, ?_, ?_⟩
  · simp [bne, beq_eq_decide]
  · simp
  · rw [finishPush_trace, pushData_drain]
    rfl

/-- Settles O32: what finishing a PUSH does not write, and MAL, which no drain sets. -/
theorem pushFrame : Obligations.PushFrame := by
  intro s t b h
  obtain rfl := eq_finishPush_of_exec_push h
  refine ⟨by simp, by simp, by simp, finishPush_rom _ s, finishPush_inputs _ s, finishPush_powerOns _ s, fun i hi => ?_⟩
  rw [finishPush_drain_len] at hi
  rw [finishPush_buf]
  exact writeWindow_beyond _ s.buf i i.isLt hi

end Sys2Proof.Machine
end

section
/-! The control commands (44_control.md): what RESET answers for each immediate (R210), and what RDREG answers for each register number (R211). -/

namespace Sys2Proof.Machine

/-! ### RESET -/

/-- Settles O14: the two answers of `execReset`, with the reset registers and the effect of IllegalCommand written out. -/
theorem resetCommand : Obligations.ResetCommand := by
  intro s imm8
  refine ⟨rfl, fun himm => ?_⟩
  obtain ⟨h, -⟩ | ⟨-, e⟩ := execReset_cases imm8 s
  · exact absurd h himm
  · exact e

/-! ### RDREG -/

/-- The numbers `0x20` to `0x3F` name the window bytes in order (R32). -/
theorem regOfNumber_of_window {r : Byte} (h : 0x20 ≤ r.toNat ∧ r.toNat ≤ 0x3F) :
    regOfNumber r = some (.buf ⟨r.toNat - 0x20, by omega⟩) := by
  unfold regOfNumber
  split
  iterate 6 omega
  exact dif_pos h

theorem regAssigned_eq_false {r : Byte} (hlow : 0x05 < r.toNat) (hwindow : ¬(0x20 ≤ r.toNat ∧ r.toNat ≤ 0x3F)) :
    regAssigned r = false := by
  simp only [regAssigned, Bool.or_eq_false_iff, Bool.and_eq_false_iff, decide_eq_false_iff_not]
  omega

theorem exec_rdreg_of_assigned {r : Byte} {reg : Reg} (h : regOfNumber r = some reg) (s : State) :
    exec (.rdreg r) s = .next (respond (okResponse ((readReg s reg).setWidth 248)) s) := by
  rw [exec, execRdreg, h]

theorem exec_rdreg_of_unassigned {r : Byte} (h : regAssigned r = false) (s : State) :
    exec (.rdreg r) s = .next (raiseIllegal .badRegister s) := by
  rw [exec, execRdreg, (regOfNumber_eq_none_iff r).2 h]

/-- Settles O15: each clause is one register of R32, read by `readReg`; the numbers left over name none. -/
theorem rdregCommand : Obligations.RdregCommand := by
  intro s r answers
  have answer {reg : Reg} (h : regOfNumber r = some reg) : answers (readReg s reg) := exec_rdreg_of_assigned h s
  split
  case isTrue h => exact answer (reg := .status) (h ▸ rfl)
  split
  case isTrue h => exact answer (reg := .len) (h ▸ rfl)
  split
  case isTrue h => exact answer (reg := .need) (h ▸ rfl)
  split
  case isTrue h => exact answer (reg := .frameCnt) (h ▸ rfl)
  split
  case isTrue h => exact answer (reg := .skipCnt) (h ▸ rfl)
  split
  case isTrue h => exact answer (reg := .byteCnt) (h ▸ rfl)
  split
  case isTrue h => exact answer (regOfNumber_of_window h)
  case isFalse hwindow =>
    exact exec_rdreg_of_unassigned (regAssigned_eq_false (by bv_omega) hwindow) s

end Sys2Proof.Machine
end

section
/-! Exceptions (60_exceptions.md): what an illegal command word does (R231, R233, R235), that a block between commands never stops (R234), how long the sticky bits last (R238), and the instances of a platform (R244). -/

namespace Sys2Proof.Machine

/-! ### Illegal words -/

theorem fieldsCauseCode_nonzeroImm {op : Nat} (hop : op = 0x01 ∨ op = 0x10 ∨ op = 0x11) {imm8 : Byte} (h : imm8 ≠ 0) :
    fieldsCauseCode op imm8.toNat = some (causeCode .nonzeroImm) := by
  have himm : imm8.toNat ≠ 0 := fun h0 => h (BitVec.eq_of_toNat_eq h0)
  rw [fieldsCauseCode, if_pos hop, if_neg himm, causeCode]

theorem fieldsCauseCode_badLength {n : Nat} (h : 32 < n) : fieldsCauseCode 0x03 n = some (causeCode .badLength) := by
  simp [fieldsCauseCode, causeCode, h]

theorem fieldsCauseCode_badRegister {r : Byte} (h : regAssigned r = false) :
    fieldsCauseCode 0x04 r.toNat = some (causeCode .badRegister) := by
  simp_all [fieldsCauseCode, causeCode, regAssigned]

theorem mustBeZero_of_ne {imm8 : Byte} (h : imm8 ≠ 0) : mustBeZero imm8 = some .nonzeroImm := if_neg h

/-- A command with an illegal immediate raises the cause that the table gives its word. -/
theorem exec_raises_of_not_wf {i : Instr} (hwf : i.wf = false) (s : State) :
    ∃ cause, wordCauseCode (encode i).cmd = some (causeCode cause) ∧ exec i s = .next (raiseIllegal cause s) := by
  rw [wordCauseCode_encode]
  cases i with
  | push b => cases hwf
  | decode n dwin =>
    obtain ⟨h, -⟩ | ⟨h, e⟩ := execDecode_cases n dwin s
    · exact absurd h (of_decide_eq_false hwf)
    · exact ⟨.badLength, fieldsCauseCode_badLength h, e⟩
  | rdreg r => exact ⟨.badRegister, fieldsCauseCode_badRegister hwf, exec_rdreg_of_unassigned hwf s⟩
  | reset imm8 | aqi25 imm8 | aqi10 imm8 =>
    have himm : imm8 ≠ 0 := beq_eq_false_iff_ne.1 hwf
    refine ⟨.nonzeroImm, fieldsCauseCode_nonzeroImm (by simp [Instr.opcode]) himm, ?_⟩
    simp only [exec, execReset, execAqi25, execAqi10, aqiCommand, mustBeZero_of_ne himm]

/-- A word with a cause raises that cause: in the decoder for its opcode, or in its command for its immediate (R235). -/
theorem runCommand_raises_of_cause {c : Command} {k : BitVec 3} (h : wordCauseCode c.cmd = some k) (s : State) :
    ∃ cause, causeCode cause = k ∧ runCommand c s = .next (raiseIllegal cause s) := by
  cases hdec : decodeCommand c with
  | error cause =>
    obtain ⟨rfl, -⟩ := opField_not_mem_of_error hdec
    exact ⟨.unknownOpcode, Option.some.inj ((wordCauseCode_of_error hdec).symm.trans h), by rw [runCommand, hdec]⟩
  | ok i =>
    rw [← (decodedCommandEncodes c i hdec).1] at h
    have hwf : i.wf = false := Bool.eq_false_iff.2 fun hwf => nomatch h.symm.trans ((wellFormedIffNoCause i).1 hwf)
    obtain ⟨cause, hcause, e⟩ := exec_raises_of_not_wf hwf s
    exact ⟨cause, Option.some.inj (hcause.symm.trans h), (runCommand_of_decode hdec s).trans e⟩

/-- Settles O7: the step runs the word, which raises its cause, and `raiseIllegal` writes just these fields. -/
theorem illegalWordRaises : Obligations.IllegalWordRaises := by
  intro s c rest k hrom hin hcause
  obtain ⟨cause, rfl, e⟩ := runCommand_raises_of_cause hcause { s with inputs := rest }
  exact (step_eq_runCommand hrom hin).trans e

/-! ### No step stops -/

theorem len_lt_of_windowShape {s : State} (h : windowShape s) : s.len.toNat < 32 := by
  obtain hlen | ⟨hlen, -⟩ | ⟨-, hlen, -⟩ := h <;> omega

/-- With room in the window every command is answered. -/
theorem exec_next_of_room {s : State} (i : Instr) (h : s.len.toNat < 32) : ∃ t, exec i s = .next t := by
  obtain ⟨data, e⟩ | ⟨k, e⟩ | ⟨-, e⟩ | ⟨b, -, -, e⟩ | ⟨b, -, hge, -⟩ := exec_cases i s
  · exact ⟨_, e⟩
  · exact ⟨_, e⟩
  · exact ⟨_, e⟩
  · exact ⟨_, e⟩
  · omega

/-- Settles O54: the tables of the invariant are well-formed, and its window has room. -/
theorem stepNeverStops : Obligations.StepNeverStops := by
  rintro s ⟨hrom, hwindow, -⟩
  obtain ⟨hbad, -⟩ | ⟨-, -, e⟩ | ⟨-, xs, -, e⟩ | ⟨-, c, xs, i, -, -, e⟩ | ⟨-, c, xs, k, -, -, e⟩ := step_cases s
  · exact nomatch hrom.symm.trans hbad
  · exact ⟨_, e⟩
  · exact ⟨_, e⟩
  · rw [e]
    exact exec_next_of_room i (len_lt_of_windowShape hwindow)
  · exact ⟨_, e⟩

/-! ### The sticky bits -/

/-- ILL and MAL, where they are set in the one STATUS, are set in the other. -/
def Status.StickyIn (st st' : Status) : Prop := (st.ill = true → st'.ill = true) ∧ (st.mal = true → st'.mal = true)

theorem Status.stickyIn_refl (st : Status) : st.StickyIn st := ⟨id, id⟩

theorem Status.stickyIn_recordIllegal (k : Cause) (st : Status) : st.StickyIn (st.recordIllegal k) :=
  ⟨fun _ => recordIllegal_ill k st, (recordIllegal_mal k st).trans⟩

theorem Status.stickyIn_recordPush (frames skips : Nat) (malformed : Bool) (st : Status) :
    st.StickyIn (st.recordPush frames skips malformed) :=
  ⟨(recordPush_ill frames skips malformed st).trans, fun h => by rw [recordPush_mal, h, Bool.true_or]⟩

theorem exec_stickyIn {i : Instr} {s t : State} (hreset : i ≠ .reset 0) (h : exec i s = .next t) :
    s.status.StickyIn t.status := by
  obtain ⟨data, e⟩ | ⟨k, e⟩ | ⟨hi, -⟩ | ⟨b, -, -, e⟩ | ⟨b, -, -, e⟩ := exec_cases i s
  · cases e.symm.trans h
    exact s.status.stickyIn_refl
  · cases e.symm.trans h
    exact s.status.stickyIn_recordIllegal k
  · exact absurd hi hreset
  · cases e.symm.trans h
    rw [finishPush_status]
    exact s.status.stickyIn_recordPush _ _ _
  · cases e.symm.trans h

/-- Settles O56: of all that a step can do only the two sources of reset clear a sticky bit, and the legal RESET has the word `0x0100`. -/
theorem stickyBitsClearedOnlyByReset : Obligations.StickyBitsClearedOnlyByReset := by
  intro s t h hpowerOn hword
  show s.status.StickyIn t.status
  obtain ⟨-, e⟩ | ⟨-, -, e⟩ | ⟨-, xs, hin, -⟩ | ⟨-, c, xs, i, hin, hdec, e⟩ | ⟨-, c, xs, k, -, -, e⟩ := step_cases s
  · cases e.symm.trans h
  · cases e.symm.trans h
    exact s.status.stickyIn_refl
  · exact absurd hin (hpowerOn xs)
  · have hreset : i ≠ .reset 0 := by
      rintro rfl
      exact hword c xs hin (decodedCommandEncodes c _ hdec).1.symm
    exact (exec_stickyIn hreset (e.symm.trans h) :)
  · cases e.symm.trans h
    exact s.status.stickyIn_recordIllegal k

/-! ### The instances of a platform -/

/-- When the platform goes on, block `k` has taken its own step and stands at its place again. -/
theorem exists_step_of_stepInstance {p q : Platform} {k : Nat} {s : State} (hs : p[k]? = some s)
    (h : stepInstance k p = .next q) : ∃ t, step s = .next t ∧ q = p.set k t := by
  rw [stepInstance, hs] at h
  cases e : step s with
  | next t =>
    simp only [e, Host.Outcome.next.injEq] at h
    exact ⟨t, rfl, h.symm⟩
  | fault r => simp [e] at h
  | refused r => simp [e] at h

/-- Settles O60: setting one entry of the platform's list leaves the others as they were. -/
theorem instancesAreIndependent : Obligations.InstancesAreIndependent := by
  intro p q k s hs h
  obtain ⟨t, hstep, rfl⟩ := exists_step_of_stepInstance hs h
  obtain ⟨hk, -⟩ := List.getElem?_eq_some_iff.1 hs
  exact ⟨⟨t, hstep, List.getElem?_set_self hk⟩, List.length_set, fun j hj => List.getElem?_set_ne hj.symm⟩

end Sys2Proof.Machine
end

section
/-! Reset (70_reset_and_hazards.md): what a power-on at the command port leaves (R270, R36). -/

namespace Sys2Proof.Machine

/-- With a power-on as the oldest input a step takes it and performs it. -/
theorem step_eq_powerOn {s : State} {rest : List Input} (hrom : romWf s.rom = true)
    (hin : s.inputs = .powerOn :: rest) : step s = .next (powerOn { s with inputs := rest }) := by
  simpa [hrom, hin] using step_cases s

/-- Settles O10: the step is the power-on, whose fields are the reset values; with LEN at 0 the free window bytes are not read. -/
theorem powerOnResets : Obligations.PowerOnResets := by
  intro s rest hrom hin
  refine ⟨powerOn { s with inputs := rest }, step_eq_powerOn hrom hin, powerOn_len _, powerOn_need _, ?_,
    powerOn_frameCnt _, powerOn_skipCnt _, powerOn_byteCnt _, powerOn_rom _, powerOn_inputs _, powerOn_trace _,
    readReg_buf_of_len_zero (powerOn_len _)⟩
  rw [powerOn_status, Status.word_reset]

end Sys2Proof.Machine
end

section
/-! What the decoder answers on the same stream with more bytes (40_frame_decoder.md R107 to R109), and the wire bytes of a frame (R140). -/

namespace Sys2Proof.Machine

/-- From the marker on, the decoder waits for the 32nd byte and then parses the first 32 (R105, R106). -/
theorem frameDecode_marker (t : List Byte) :
    (t.length + 2 < 32 → frameDecode (0x42#8 :: 0x4D#8 :: t) = .needMoreBytes (32 - (t.length + 2))) ∧
    (32 ≤ t.length + 2 →
      frameDecode (0x42#8 :: 0x4D#8 :: t) = .frame (parse ((0x42#8 :: 0x4D#8 :: t).take 32))) := by
  obtain ⟨-, hcases⟩ := decodeClassifies
  obtain ⟨-, -, -, hshort, hlong⟩ := hcases 0 0 t
  exact ⟨hshort, hlong⟩

theorem frameDecode_skip_of_first {b : Byte} (h : b ≠ 0x42#8) (t : List Byte) : frameDecode (b :: t) = .skip :=
  if_pos h

theorem frameDecode_skip_of_second {b : Byte} (h : b ≠ 0x4D#8) (t : List Byte) :
    frameDecode (0x42#8 :: b :: t) = .skip :=
  if_pos h

theorem frameDecode_append_of_skip {s : List Byte} (h : frameDecode s = .skip) (t : List Byte) :
    frameDecode (s ++ t) = .skip := by
  obtain ⟨-, e⟩ | ⟨b, u, rfl, hb, -⟩ | ⟨-, e⟩ | ⟨b, u, rfl, hb, -⟩ | ⟨_, -, -, e⟩ | ⟨_, -, -, e⟩ := frameDecode_cases s
  case inr.inl => exact frameDecode_skip_of_first hb (u ++ t)
  case inr.inr.inr.inl => exact frameDecode_skip_of_second hb (u ++ t)
  all_goals cases e.symm.trans h

theorem frameDecode_append_of_frame {s : List Byte} {f : Frame} (h : frameDecode s = .frame f) (t : List Byte) :
    frameDecode (s ++ t) = .frame f := by
  obtain ⟨-, e⟩ | ⟨_, _, -, -, e⟩ | ⟨-, e⟩ | ⟨_, _, -, -, e⟩ | ⟨_, -, -, e⟩ | ⟨u, rfl, hlen, e⟩ := frameDecode_cases s
  case inr.inr.inr.inr.inr =>
    rw [← e.symm.trans h, ← List.take_append_of_le_length (l₂ := t) hlen]
    exact (frameDecode_marker (u ++ t)).2 (by simp at hlen ⊢; omega)
  all_goals cases e.symm.trans h

/-- A buffer on which the decoder asks for more is empty, the first marker byte, or a marker and less than a frame (R25). -/
theorem frameDecode_needMoreBytes_iff (s : List Byte) : (∃ m, frameDecode s = .needMoreBytes m) ↔
    s = [] ∨ s = [0x42#8] ∨ ∃ t, t.length + 2 < 32 ∧ s = 0x42#8 :: 0x4D#8 :: t := by
  constructor
  · rintro ⟨m, h⟩
    obtain ⟨rfl, -⟩ | ⟨_, _, -, -, e⟩ | ⟨rfl, -⟩ | ⟨_, _, -, -, e⟩ | ⟨t, rfl, hlen, -⟩ | ⟨_, -, -, e⟩ :=
      frameDecode_cases s
    · exact .inl rfl
    · cases e.symm.trans h
    · exact .inr (.inl rfl)
    · cases e.symm.trans h
    · exact .inr (.inr ⟨t, hlen, rfl⟩)
    · cases e.symm.trans h
  · rintro (rfl | rfl | ⟨t, hlen, rfl⟩)
    · exact ⟨_, rfl⟩
    · exact ⟨_, rfl⟩
    · exact ⟨_, (frameDecode_marker t).1 hlen⟩

/-- Settles O18: MalformedInput is no answer of the decoder, and only a Frame, on 32 bytes or more, and a Skip, on one or more, consume any. -/
theorem decodeBounds : Obligations.DecodeBounds := by
  intro s
  refine ⟨frameDecode_ne_malformedInput s, ?_, fun hlen => ?_⟩
  · cases h : frameDecode s with
    | frame f => exact length_of_frameDecode_frame h
    | skip => exact length_pos_of_frameDecode s (by simp [h])
    | needMoreBytes m => exact Nat.zero_le _
    | malformedInput => exact Nat.zero_le _
  · have htake : (s.take 32).length = 32 := by simpa using hlen
    conv_lhs => rw [← s.take_append_drop 32]
    cases h : frameDecode (s.take 32) with
    | frame f => exact frameDecode_append_of_frame h _
    | skip => exact frameDecode_append_of_skip h _
    | needMoreBytes m => exact absurd (length_of_frameDecode_needMoreBytes h).1 (by omega)
    | malformedInput => exact absurd h (frameDecode_ne_malformedInput _)

/-- Settles O19: a Skip and a Frame are decided by the first bytes; two bytes that need more begin with the marker. -/
theorem decodePrefixStable : Obligations.DecodePrefixStable := by
  refine fun s t => ⟨fun h => frameDecode_append_of_skip h t, fun f h => frameDecode_append_of_frame h t,
    fun m h htwo => ?_⟩
  obtain ⟨-, rfl⟩ := length_of_frameDecode_needMoreBytes h
  obtain rfl | rfl | ⟨u, -, rfl⟩ := (frameDecode_needMoreBytes_iff s).1 ⟨_, h⟩
  · cases htwo
  · simp at htwo
  · obtain ⟨hshort, hlong⟩ := frameDecode_marker (u ++ t)
    simp only [List.length_append, List.length_cons, List.cons_append] at *
    refine ⟨fun hlt => (hshort (by omega)).trans ?_, fun hle => hlong (by omega)⟩
    congr 1
    omega

/-- Settles O24: the bytes of `enc` parse back to the fields. -/
theorem encodedFrameDecodes : Obligations.EncodedFrameDecodes := fun f t => ⟨enc_length f, frameDecode_enc_append f t⟩

end Sys2Proof.Machine
end

section
/-! The reassembler between commands (43_reassembler.md): the shapes of the remainder (R25), the transitions of one PUSH (R188), and streams cut into chunks (R190, R191). -/

namespace Sys2Proof.Machine

/-! ### The shapes of the remainder -/

theorem remainder_cases (s : State) :
    (s.len.toNat = 0 ∧ remainder s = []) ∨ (s.len.toNat = 1 ∧ remainder s = [s.buf[0]]) ∨
      (2 ≤ s.len.toNat ∧ ∃ t, t.length + 2 = min s.len.toNat 32 ∧ remainder s = s.buf[0] :: s.buf[1] :: t) := by
  have hbuf : s.buf.toList = s.buf[0] :: s.buf[1] :: s.buf.toList.drop 2 :=
    List.ext_getElem (by simp) fun i _ _ => by
      match i with
      | 0 | 1 => simp
      | i + 2 => simp [Nat.add_comm]
  rw [remainder, hbuf]
  match s.len.toNat with
  | 0 => exact .inl ⟨rfl, rfl⟩
  | 1 => exact .inr (.inl ⟨rfl, rfl⟩)
  | n + 2 => exact .inr (.inr ⟨by omega, _, by simp; omega, rfl⟩)

/-- The shapes of R25 are the remainders on which the decoder asks for more. -/
theorem windowShape_iff (s : State) : windowShape s ↔ ∃ m, frameDecode (remainder s) = .needMoreBytes m := by
  rw [frameDecode_needMoreBytes_iff]
  obtain ⟨hlen, hrem⟩ | ⟨hlen, hrem⟩ | ⟨hlen, t, ht, hrem⟩ := remainder_cases s
  · simp [windowShape, hlen, hrem]
  · simp [windowShape, hlen, hrem]
  · have : t.length + 2 < 32 ↔ s.len.toNat ≤ 31 := by omega
    simp [windowShape, hrem, ← this, hlen, show s.len.toNat ≠ 0 by omega, show s.len.toNat ≠ 1 by omega]

/-! ### The transitions of one PUSH -/

/-- A buffer on which the decoder asks for more is kept whole. -/
theorem drain_of_shape {s : List Byte} (h : ∃ m, frameDecode s = .needMoreBytes m) :
    drain s = { frames := [], skips := 0, rest := s, stop := .needMoreBytes (32 - s.length) } := by
  obtain ⟨m, hm⟩ := h
  obtain ⟨-, rfl⟩ := length_of_frameDecode_needMoreBytes hm
  exact drain_of_needMoreBytes hm

theorem frameDecode_drain_rest (s : List Byte) : ∃ m, frameDecode (drain s).rest = .needMoreBytes m :=
  (drain_stops_on_rest s).imp fun _ => And.left

theorem drain_marker0 : drain [0x42#8] = { frames := [], skips := 0, rest := [0x42#8], stop := .needMoreBytes 31 } :=
  drain_of_shape ⟨_, rfl⟩

theorem drain_other {b : Byte} (hb : b ≠ 0x42#8) :
    drain [b] = { frames := [], skips := 1, rest := [], stop := .needMoreBytes 32 } := by
  rw [drain_of_skip (frameDecode_skip_of_first hb [])]
  rfl

/-- After a first marker byte that no second follows, the drain goes on with the byte that came instead. -/
theorem drain_marker0_other {b : Byte} (hb : b ≠ 0x4D#8) : drain [0x42#8, b] = (drain [b]).addSkip :=
  drain_of_skip (frameDecode_skip_of_second hb [])

theorem drain_marker {t : List Byte} (ht : t.length + 2 < 32) : drain (0x42#8 :: 0x4D#8 :: t) =
    { frames := [], skips := 0, rest := 0x42#8 :: 0x4D#8 :: t, stop := .needMoreBytes (32 - (t.length + 2)) } :=
  drain_of_needMoreBytes ((frameDecode_marker t).1 ht)

theorem drain_whole_frame {t : List Byte} (ht : t.length + 2 = 32) : drain (0x42#8 :: 0x4D#8 :: t) =
    { frames := [parse (0x42#8 :: 0x4D#8 :: t)], skips := 0, rest := [], stop := .needMoreBytes 32 } := by
  have hall (s : List Byte) (hs : s.length = 32) : s.take 32 = s ∧ s.drop 32 = [] :=
    ⟨List.take_of_length_le hs.le, List.drop_of_length_le hs.le⟩
  obtain ⟨htake, hdrop⟩ := hall (0x42#8 :: 0x4D#8 :: t) ht
  rw [drain_of_frame ((frameDecode_marker t).2 ht.ge), htake, hdrop]
  rfl

/-- What a PUSH keeps and delivers, read off its drain (R181). -/
theorem exec_push_of_drain {s : State} {b : Byte} (hroom : s.len.toNat < 32) {frames : List Frame} {skips : Nat}
    {rest : List Byte} {stop : DrainStop} (hd : drain (remainder s ++ [b]) = ⟨frames, skips, rest, stop⟩)
    {data : BitVec 248} (hdata : BitVec.ofNat 248 frames.length ||| BitVec.ofNat 248 skips <<< 1 = data) :
    ∃ t : State, exec (.push b) s = .next t ∧ remainder t = rest ∧ t.need.toNat = 32 - rest.length ∧
      t.trace = s.trace ++ frames.map (fun f => .frame f.pack) ++ [.response { ok := true, cause := 0, data := data }] := by
  obtain ⟨t, hexec, hrem, -, hneed, -, -, -, -, -, htrace⟩ := pushCommand s b hroom
  rw [hd] at hrem hneed htrace
  exact ⟨t, hexec, hrem, hneed, hdata ▸ htrace⟩

theorem remainder_length_of_windowShape {s : State} (h : windowShape s) : (remainder s).length = s.len.toNat := by
  rw [remainder_length, min_eq_left (len_lt_of_windowShape h).le]

/-- Settles O34: each row is the drain of the row's buffer. -/
theorem pushTransitions : Obligations.PushTransitions := by
  intro s b hshape gives
  have row {frames skips rest stop data} (hd : drain (remainder s ++ [b]) = ⟨frames, skips, rest, stop⟩)
      (hdata : BitVec.ofNat 248 frames.length ||| BitVec.ofNat 248 skips <<< 1 = data) : gives rest frames data :=
    exec_push_of_drain (len_lt_of_windowShape hshape) hd hdata
  rw [← remainder_length_of_windowShape hshape]
  obtain hrem | hrem | ⟨t, ht, hrem⟩ := (frameDecode_needMoreBytes_iff _).1 ((windowShape_iff s).1 hshape)
  · rw [hrem] at row ⊢
    rw [if_pos List.length_nil]
    split_ifs with hb
    · subst hb
      exact row drain_marker0 rfl
    · exact row (drain_other hb) rfl
  · rw [hrem] at row ⊢
    rw [if_neg (by simp), if_pos List.length_singleton]
    split_ifs with hb hb'
    · subst hb
      exact row (drain_marker (t := []) (by decide)) rfl
    · subst hb'
      exact row ((drain_marker0_other hb).trans (congrArg Drain.addSkip drain_marker0)) rfl
    · exact row ((drain_marker0_other hb).trans (congrArg Drain.addSkip (drain_other hb'))) rfl
  · simp only [hrem, List.cons_append] at row ⊢
    rw [if_neg (by simp), if_neg (by simp)]
    split_ifs with hshort
    · exact row (drain_marker (t := t ++ [b]) (by simp at hshort ⊢; omega)) rfl
    · exact row (drain_whole_frame (t := t ++ [b]) (by simp at hshort ⊢; omega)) (by simp)

/-! ### The work of one PUSH -/

/-- A drain takes a turn for each frame and each skip, and one to stop. -/
theorem drainLoop_eq_drain (s : List Byte) :
    ∀ turns, (drain s).frames.length + (drain s).skips < turns → drainLoop turns s = drain s := by
  refine drain_induction (P := fun s d => ∀ turns, d.frames.length + d.skips < turns → drainLoop turns s = d)
    (fun s f h ih turns hturns => ?_) (fun s h ih turns hturns => ?_) (fun s m h turns hturns => ?_) s <;>
    obtain ⟨turns, rfl⟩ := Nat.exists_eq_succ_of_ne_zero (Nat.ne_zero_of_lt hturns)
  · simp only [Drain.addFrame, List.length_cons] at hturns
    simp only [drainLoop, h, Config.frameBytes_eq, ih turns (by omega)]
  · simp only [Drain.addSkip] at hturns
    simp only [drainLoop, h, ih turns (by omega)]
  · simp only [drainLoop, h]

/-- The counts of R188's rows: a remainder with one more byte drains to one frame, or to no frame and at most two skips. -/
theorem drain_counts_of_push {rem : List Byte} (h : ∃ m, frameDecode rem = .needMoreBytes m) (b : Byte) :
    let d := drain (rem ++ [b])
    (d.frames.length = 1 ∧ d.skips = 0) ∨ (d.frames = [] ∧ d.skips ≤ 2) := by
  obtain rfl | rfl | ⟨t, ht, rfl⟩ := (frameDecode_needMoreBytes_iff rem).1 h
  · by_cases hb : b = 0x42#8
    · simp [hb, drain_marker0]
    · simp [drain_other hb]
  · by_cases hb : b = 0x4D#8
    · simp [hb, drain_marker (t := [])]
    · by_cases hb' : b = 0x42#8
      · simp [hb', drain_marker0_other, drain_marker0, Drain.addSkip]
      · simp [drain_marker0_other hb, drain_other hb', Drain.addSkip]
  · obtain hlen | hlen : t.length + 3 < 32 ∨ t.length + 3 = 32 := by omega
    · simp [drain_marker (t := t ++ [b]) (by simpa using hlen)]
    · simp [drain_whole_frame (t := t ++ [b]) (by simpa using hlen)]

/-- Settles O35: the counts are those of R188's rows, and with at most two of them three turns are enough. -/
theorem pushWorkBounded : Obligations.PushWorkBounded := by
  intro s b hshape d
  have hturns : d.frames.length + d.skips < 3 → drainLoop 3 (remainder s ++ [b]) = d := drainLoop_eq_drain _ 3
  obtain ⟨hframes, hskips⟩ | ⟨hframes, hskips⟩ : (d.frames.length = 1 ∧ d.skips = 0) ∨ (d.frames = [] ∧ d.skips ≤ 2) :=
    drain_counts_of_push ((windowShape_iff s).1 hshape) b
  · exact ⟨hframes.le, hskips.trans_le (by omega), .inr hskips, hturns (by omega)⟩
  · have hnone : d.frames.length = 0 := List.length_eq_zero_iff.2 hframes
    exact ⟨by omega, hskips, .inl hframes, hturns (by omega)⟩

/-! ### Streams cut into chunks -/

/-- The source's `process` called twice: the frames and the skips of both, and what the second leaves (R190). -/
def Drain.andThen (d later : Drain) : Drain :=
  { later with frames := d.frames ++ later.frames, skips := d.skips + later.skips }

/-- To drain a stream at once is to drain a part of it and then what is left with the bytes that follow: later bytes change no frame and no skip (R109). -/
theorem drain_append (s t : List Byte) : drain (s ++ t) = (drain s).andThen (drain ((drain s).rest ++ t)) := by
  refine drain_induction (P := fun s d => drain (s ++ t) = d.andThen (drain (d.rest ++ t)))
    (fun s f h ih => ?_) (fun s h ih => ?_) (fun s m h => ?_) s
  · rw [drain_of_frame (frameDecode_append_of_frame h t),
      List.drop_append_of_le_length (length_of_frameDecode_frame h), ih]
    rfl
  · rw [drain_of_skip (frameDecode_append_of_skip h t),
      List.drop_append_of_le_length (length_pos_of_frameDecode s (by simp [h])), ih]
    simp [Drain.andThen, Drain.addSkip, Nat.add_right_comm]
  · simp [Drain.andThen]

/-- `process` chunk by chunk is one `process` of the whole stream. -/
theorem processChunks_eq (chunks : List (List Byte)) {rem : List Byte} (h : ∃ m, frameDecode rem = .needMoreBytes m) :
    let d := processChunk rem chunks.flatten
    processChunks rem chunks = (d.frames, d.skips, d.rest) := by
  induction chunks generalizing rem with
  | nil => simp [processChunks, processChunk, drain_of_shape h]
  | cons chunk chunks ih =>
    simp only [processChunks, processChunk] at ih ⊢
    rw [ih (frameDecode_drain_rest (rem ++ chunk)), List.flatten_cons, ← List.append_assoc, drain_append (rem ++ chunk)]
    rfl

/-- Settles O36: a PROCESS is its PUSHes one by one, and the drains of the chunks join into one. -/
theorem fragmentationInvariance : Obligations.FragmentationInvariance := by
  intro rem chunks
  refine ⟨?_, processChunks_eq chunks⟩
  simp [assembleAll, assemble, List.flatMap_def, List.map_flatten, Function.comp_def]

/-! ### PROCESS -/

/-- What a run of `n` PUSHes does that takes the stream from `s` to `t` as the drain `d` does: the frames at the sink, the remainder, the three counters, and one response per byte (R181, R190). -/
structure Processed (d : Drain) (n : Nat) (s t : State) : Prop where
  sink : sinkOf t = sinkOf s ++ d.frames.map Frame.pack
  rest : remainder t = d.rest
  frameCnt : t.frameCnt = s.frameCnt + BitVec.ofNat 32 d.frames.length
  skipCnt : t.skipCnt = s.skipCnt + BitVec.ofNat 32 d.skips
  byteCnt : t.byteCnt = s.byteCnt + BitVec.ofNat 32 n
  responses : (responsesOf t).length = (responsesOf s).length + n

theorem processed_nothing {s : State} (h : windowShape s) : Processed (drain (remainder s)) 0 s s := by
  rw [drain_of_shape ((windowShape_iff s).1 h)]
  exact ⟨by simp, rfl, by simp, by simp, by simp, rfl⟩

theorem processed_finishPush (bytes : List Byte) (s : State) (inputs : List Input) :
    Processed (drain bytes) 1 s (finishPush (drain bytes) { s with inputs := inputs }) := by
  refine ⟨?_, remainder_finishPush_drain bytes _, finishPush_frameCnt _ _, finishPush_skipCnt _ _,
    finishPush_byteCnt _ _, ?_⟩
  · simp [sinkOf, List.filterMap_map]
  · simp [responsesOf, List.filterMap_map]

theorem Processed.trans {d later : Drain} {m n : Nat} {s t u : State} (h : Processed d m s t)
    (h' : Processed later n t u) : Processed (d.andThen later) (m + n) s u where
  sink := by simp [h'.sink, h.sink, Drain.andThen]
  rest := h'.rest
  frameCnt := by simp [h'.frameCnt, h.frameCnt, Drain.andThen, BitVec.ofNat_add, BitVec.add_assoc]
  skipCnt := by simp [h'.skipCnt, h.skipCnt, Drain.andThen, BitVec.ofNat_add, BitVec.add_assoc]
  byteCnt := by simp [h'.byteCnt, h.byteCnt, BitVec.ofNat_add, BitVec.add_assoc]
  responses := by rw [h'.responses, h.responses, Nat.add_assoc]

/-- A drained remainder is again one of the shapes of R25. -/
theorem windowShape_finishPush_drain (bytes : List Byte) (s : State) : windowShape (finishPush (drain bytes) s) := by
  rw [windowShape_iff, remainder_finishPush_drain]
  exact frameDecode_drain_rest bytes

/-- The step that takes a PUSH off the port. -/
theorem exists_step_push {s : State} {b : Byte} {later : List Input} (hrom : romWf s.rom = true) (hshape : windowShape s)
    (hin : s.inputs = .command (encode (.push b)) :: later) :
    ∃ t, step s = .next t ∧ romWf t.rom = true ∧ windowShape t ∧ t.inputs = later ∧
      Processed (drain (remainder s ++ [b])) 1 s t := by
  refine ⟨finishPush (drain (remainder s ++ [b])) { s with inputs := later }, ?_, hrom,
    windowShape_finishPush_drain _ _, rfl, processed_finishPush _ s later⟩
  rw [stepRunsDecodedCommand s _ later _ hrom hin (encodedCommandDecodes _)]
  exact exec_push_of_room b (len_lt_of_windowShape hshape)

theorem runSteps_succ {s t : State} (h : step s = .next t) (n : Nat) : runSteps (n + 1) s = runSteps n t := by
  rw [runSteps, h]

theorem assembleAll_process_cons (b : Byte) (chunk : List Byte) :
    assembleAll [.process (b :: chunk)] = .command (encode (.push b)) :: assembleAll [.process chunk] := rfl

/-- As many steps as the chunk has bytes process it. -/
theorem runSteps_process (chunk : List Byte) {s : State} {later : List Input} (hrom : romWf s.rom = true)
    (hshape : windowShape s) (hin : s.inputs = assembleAll [.process chunk] ++ later) :
    ∃ t, runSteps chunk.length s = .next t ∧ t.inputs = later ∧
      Processed (processChunk (remainder s) chunk) chunk.length s t := by
  induction chunk generalizing s with
  | nil => exact ⟨s, rfl, hin, by simpa [processChunk] using processed_nothing hshape⟩
  | cons b chunk ih =>
    rw [assembleAll_process_cons] at hin
    obtain ⟨u, hstep, hrom', hshape', hin', hpush⟩ := exists_step_push hrom hshape hin
    obtain ⟨t, hrun, hlater, hrest⟩ := ih hrom' hshape' hin'
    refine ⟨t, ?_, hlater, ?_⟩
    · rw [List.length_cons, runSteps_succ hstep, hrun]
    · rw [processChunk, hpush.rest] at hrest
      rw [processChunk, List.append_cons, drain_append, List.length_cons, Nat.add_comm]
      exact hpush.trans hrest

/-- Settles O37: each PUSH drains its byte, and the drains join into that of the chunk. -/
theorem processIsChunkProcess : Obligations.ProcessIsChunkProcess := by
  rintro s chunk later ⟨hrom, hshape, -⟩ hin d
  obtain ⟨t, hrun, hlater, h⟩ := runSteps_process chunk hrom hshape hin
  exact ⟨t, hrun, hlater, h.sink, h.rest, h.frameCnt, h.skipCnt, h.byteCnt, h.responses⟩

/-- Settles O33: there is no byte to append to. -/
theorem pushBeyondWindowFaults : Obligations.PushBeyondWindowFaults := by
  intro s b hlen
  obtain ⟨hroom, -⟩ | ⟨-, e⟩ := execPush_cases b s
  · omega
  · exact e

end Sys2Proof.Machine
end

section
/-! The invariant between commands (10_state.md R25, R26, R27, R31), steps that wait or are refused (R151, R271), and reads issued twice (20_memory.md R62). -/

namespace Sys2Proof.Machine

/-! ### STATUS -/

theorem statusLegal_reset : statusLegal Status.reset := by decide

theorem causeCode_range (k : Cause) : (causeCode k).toNat ≤ 4 ∧ causeCode k ≠ 0 := by
  cases k <;> decide

theorem statusLegal_recordIllegal (k : Cause) {st : Status} (h : statusLegal st) : statusLegal (st.recordIllegal k) := by
  obtain ⟨hmal, hskp, hfrm, -, -⟩ := h
  obtain ⟨hle, hne⟩ := causeCode_range k
  exact ⟨hmal, hskp, hfrm, hle, iff_of_true rfl hne⟩

/-- A PUSH leaves STATUS legal, because it never emits and skips, and skips at most two bytes (R188). -/
theorem statusLegal_recordPush {frames skips : Nat} {st : Status} (h : statusLegal st)
    (hcounts : (frames = 1 ∧ skips = 0) ∨ (frames = 0 ∧ skips ≤ 2)) :
    statusLegal (st.recordPush frames skips false) := by
  obtain ⟨hmal, -, -, hillc, hill⟩ := h
  refine ⟨by rw [recordPush_mal, hmal, Bool.or_false], fun hskp => ?_, fun hfrm => ?_, hillc, hill⟩
  · have hmod : skips % 4 = 3 := congrArg BitVec.toNat hskp
    omega
  · obtain ⟨-, rfl⟩ | ⟨rfl, -⟩ := hcounts
    · rfl
    · cases hfrm

/-! ### The invariant -/

theorem inv_resetRegisters {s : State} (hrom : romWf s.rom = true) : (resetRegisters s).Inv :=
  ⟨hrom, .inl rfl, rfl, rfl, statusLegal_reset⟩

/-- Settles O52: every register of the start state has its reset value. -/
theorem resetMeetsInvariant : Obligations.ResetMeetsInvariant :=
  inv_resetRegisters (s := State.reset) (by decide +kernel)

theorem inv_powerOn {s : State} (hrom : romWf s.rom = true) : (powerOn s).Inv :=
  ⟨hrom, .inl rfl, rfl, rfl, statusLegal_reset⟩

theorem inv_raiseIllegal (k : Cause) {s : State} (h : s.Inv) : (raiseIllegal k s).Inv := by
  obtain ⟨hrom, hshape, hneed, hacc, hstatus⟩ := h
  exact ⟨hrom, hshape, hneed, hacc, statusLegal_recordIllegal k hstatus⟩

/-- A PUSH moves each of its bytes into a frame, a skip or the remainder (R194). -/
theorem accounted_finishPush {s : State} (b : Byte) (hshape : windowShape s) (h : accounted s) :
    accounted (finishPush (drain (remainder s ++ [b])) s) := by
  have hbytes := drainAccountsForBytes (remainder s ++ [b])
  rw [List.length_append, List.length_singleton, remainder_length_of_windowShape hshape,
    ← finishPush_drain_len _ s] at hbytes
  have hmod := congrArg (Nat.cast (R := U32)) hbytes
  simp only [Nat.cast_add, Nat.cast_mul, Nat.cast_ofNat, Nat.cast_one] at hmod
  simp only [accounted, finishPush_byteCnt, finishPush_frameCnt, finishPush_skipCnt, ← BitVec.ofNat_toNat,
    ← BitVec.natCast_eq_ofNat] at h ⊢
  linear_combination h + hmod

theorem inv_finishPush {s : State} (b : Byte) (h : s.Inv) : (finishPush (drain (remainder s ++ [b])) s).Inv := by
  obtain ⟨hrom, hshape, hneed, hacc, hstatus⟩ := h
  refine ⟨hrom, windowShape_finishPush_drain _ s, ?_, accounted_finishPush b hshape hacc, ?_⟩
  · have := drain_rest_length_lt (remainder s ++ [b])
    rw [needMatches, finishPush_drain_need, finishPush_drain_len]
    omega
  · rw [finishPush_status, drain_stop_malformed]
    refine statusLegal_recordPush hstatus ?_
    simpa using drain_counts_of_push ((windowShape_iff s).1 hshape) b

theorem inv_exec {i : Instr} {s t : State} (hs : s.Inv) (h : exec i s = .next t) : t.Inv := by
  obtain ⟨data, e⟩ | ⟨k, e⟩ | ⟨-, e⟩ | ⟨b, -, -, e⟩ | ⟨b, -, -, e⟩ := exec_cases i s <;> cases e.symm.trans h
  · exact hs
  · exact inv_raiseIllegal k hs
  · exact inv_resetRegisters hs.1
  · exact inv_finishPush b hs

/-- Settles O53: each thing that a step can do keeps the invariant; taking an input off the port touches none of its parts. -/
theorem stepKeepsInvariant : Obligations.StepKeepsInvariant := by
  intro s t hs h
  obtain ⟨-, e⟩ | ⟨-, -, e⟩ | ⟨hrom, xs, -, e⟩ | ⟨-, c, xs, i, -, -, e⟩ | ⟨-, c, xs, k, -, -, e⟩ := step_cases s <;>
    have e := e.symm.trans h
  · cases e
  · cases e
    exact hs
  · cases e
    exact inv_powerOn hrom
  · exact inv_exec (s := { s with inputs := xs }) hs e
  · cases e
    exact inv_raiseIllegal k (s := { s with inputs := xs }) hs

/-! ### Waiting and refusing -/

/-- Settles O9: with no input the step waits. -/
theorem idleStepChangesNothing : Obligations.IdleStepChangesNothing := by
  intro s hrom hin
  simpa [hrom, hin] using step_cases s

/-- Settles O11: the check of the tables comes before the input is looked at. -/
theorem illFormedTablesRefused : Obligations.IllFormedTablesRefused := by
  intro s hrom
  simpa [hrom] using step_cases s

/-! ### Reads -/

/-- A legal read answers data that no delivered response changes. -/
theorem exists_readData {i : Instr} (hwf : i.wf = true) (hpush : ∀ b, i ≠ .push b) (hreset : i ≠ .reset 0) :
    ∃ data : State → BitVec 248, ∀ s, exec i s = .next (respond (okResponse (data s)) s) ∧
      ∀ r, data (respond r s) = data s := by
  cases i with
  | push b => exact absurd rfl (hpush b)
  | reset imm8 => exact absurd (congrArg Instr.reset (beq_iff_eq.1 hwf)) hreset
  | decode n dwin =>
    refine ⟨fun _ => (frameDecode (dwinBytes n.toNat dwin)).pack, fun s => ⟨?_, fun _ => rfl⟩⟩
    exact (FrameDecoder.decodeCommand s n dwin).1 (of_decide_eq_true hwf)
  | rdreg r =>
    obtain ⟨reg, hreg⟩ := Option.ne_none_iff_exists'.1 fun h =>
      nomatch hwf.symm.trans ((regOfNumber_eq_none_iff r).1 h)
    refine ⟨fun s => (readReg s reg).setWidth 248, fun s => ⟨exec_rdreg_of_assigned hreg s, fun _ => ?_⟩⟩
    cases reg <;> rfl
  | aqi25 imm8 c =>
    obtain rfl : imm8 = 0 := beq_iff_eq.1 hwf
    exact ⟨fun s => (aqi s.rom s.rom.bp25 c).setWidth 248, fun s => ⟨rfl, fun _ => rfl⟩⟩
  | aqi10 imm8 c =>
    obtain rfl : imm8 = 0 := beq_iff_eq.1 hwf
    exact ⟨fun s => (aqi s.rom s.rom.bp10 c).setWidth 248, fun s => ⟨rfl, fun _ => rfl⟩⟩

/-- Settles O58: the first response is all that the first read changes, and the second does not depend on it. -/
theorem readsAreIdempotent : Obligations.ReadsAreIdempotent := by
  intro i s hwf hpush hreset
  obtain ⟨data, hread⟩ := exists_readData hwf hpush hreset
  obtain ⟨hfirst, hkept⟩ := hread s
  obtain ⟨hsecond, -⟩ := hread (respond (okResponse (data s)) s)
  rw [hkept] at hsecond
  exact ⟨_, _, _, hfirst, hsecond, rfl, rfl⟩

end Sys2Proof.Machine
end

section
/-! Rounding keeps the order of exact values (R12), and so the operations on data without a sign; then the corners of the AQI function (42_aqi.md R161, R162) and its range with the default tables (R163). -/

namespace Sys2Proof.Machine

/-! ### Rounding is monotone -/

/-- Two roundings in the wrong order would be as near to both values, which would then be one. -/
theorem roundedMag_mono {num num' den : Nat} (hd : 0 < den) (h : num ≤ num')
    (hfin : roundedMag num den < overflowMag) (hfin' : roundedMag num' den < overflowMag) :
    roundedMag num den ≤ roundedMag num' den := by
  by_contra hlt
  have hlt := Nat.lt_of_not_le hlt
  have hnear := roundedMag_nearest hd (isDatumMag_roundedMag hd hfin') hlt.ne
  have hnear' := roundedMag_nearest hd (isDatumMag_roundedMag hd hfin) hlt.ne'
  have hscaled := Nat.mul_lt_mul_of_pos_right hlt hd
  obtain rfl | hne := h.eq_or_lt
  · exact lt_irrefl _ hlt
  · simp only [← Nat.cast_mul] at hnear hnear'
    omega

theorem le64_round {num num' den : Nat} (hd : 0 < den) (h : num ≤ num') :
    le64 (F64.round false num den) (F64.round false num' den) = true := by
  rw [round_eq false num' den]
  split_ifs with hover'
  · rw [round_eq]
    split_ifs <;> rfl
  · have hover : ¬overflowMag ≤ roundedMag num den := fun hover => hover' <|
      overflowMag_eq.trans_le <| reached_of_midpoint_le hd <|
        (midpoint_le_of_reached hd (overflowMag_eq.symm.trans_le hover)).trans h
    rw [round_eq, if_neg hover]
    simpa [le64, signed] using roundedMag_mono hd h (Nat.lt_of_not_le hover) (Nat.lt_of_not_le hover')

/-! ### Comparing data, continued -/

theorem le64_of_lt64 {x y : F64} (h : lt64 x y = true) : le64 x y = true := by
  obtain ⟨hx, hy, hlt⟩ := (lt64_iff x y).1 h
  exact (le64_iff x y).2 ⟨hx, hy, hlt.le⟩

theorem lt64_of_le64_of_lt64 {x y z : F64} (hxy : le64 x y = true) (hyz : lt64 y z = true) : lt64 x z = true := by
  obtain ⟨hx, -, hle⟩ := (le64_iff x y).1 hxy
  obtain ⟨-, hz, hlt⟩ := (lt64_iff y z).1 hyz
  exact (lt64_iff x z).2 ⟨hx, hz, hle.trans_lt hlt⟩

theorem lt64_of_lt64_of_le64 {x y z : F64} (hxy : lt64 x y = true) (hyz : le64 y z = true) : lt64 x z = true := by
  obtain ⟨hx, -, hlt⟩ := (lt64_iff x y).1 hxy
  obtain ⟨-, hz, hle⟩ := (le64_iff y z).1 hyz
  exact (lt64_iff x z).2 ⟨hx, hz, hlt.trans_le hle⟩

theorem le64_trans {x y z : F64} (hxy : le64 x y = true) (hyz : le64 y z = true) : le64 x z = true := by
  obtain ⟨hx, -, hle⟩ := (le64_iff x y).1 hxy
  obtain ⟨-, hz, hle'⟩ := (le64_iff y z).1 hyz
  exact (le64_iff x z).2 ⟨hx, hz, hle.trans hle'⟩

/-- Of two data that are no NaN, one is below the other or not. -/
theorem lt64_or_le64 {x y : F64} (hx : x ≠ .nan) (hy : y ≠ .nan) : lt64 x y = true ∨ le64 y x = true :=
  (lt_or_ge x.value y.value).imp (fun h => (lt64_iff x y).2 ⟨hx, hy, h⟩) (fun h => (le64_iff y x).2 ⟨hy, hx, h⟩)

/-! ### Data without a sign -/

/-- The datum is no NaN and its sign bit is 0. -/
def F64.unsigned : F64 → Bool
  | .inf neg   => !neg
  | .fin neg _ => !neg
  | .nan       => false

theorem F64.unsigned_iff (x : F64) : x.unsigned = true ↔ x = .inf false ∨ ∃ a, x = .fin false a := by
  cases x <;> simp [F64.unsigned]

theorem F64.ne_nan_of_unsigned {x : F64} (h : x.unsigned = true) : x ≠ .nan := by
  rintro rfl
  cases h

theorem F64.le64_zero_of_unsigned {x : F64} (h : x.unsigned = true) : le64 F64.zero x = true := by
  obtain rfl | ⟨a, rfl⟩ := x.unsigned_iff.1 h
  · rfl
  · simp [le64, F64.zero, signed]

/-- A datum above zero, or above an unsigned one, has no sign. -/
theorem F64.unsigned_of_lt64 {x y : F64} (hx : x.unsigned = true) (h : lt64 x y = true) : y.unsigned = true := by
  have h0 := lt64_of_le64_of_lt64 (F64.le64_zero_of_unsigned hx) h
  match y with
  | .nan => cases h0
  | .inf neg => simpa [lt64, F64.zero, F64.unsigned] using h0
  | .fin false a => rfl
  | .fin true a =>
    simp [lt64, F64.zero, signed] at h0
    omega

/-! ### Operations on data without a sign -/

theorem unsigned_round (num den : Nat) : (F64.round false num den).unsigned = true := by
  rw [round_eq]
  split_ifs <;> rfl

theorem round_zero (den : Nat) : F64.round false 0 den = .fin false 0 := by
  have hmag : roundedMag 0 den = 0 := by simp [roundedMag, roundedSig, roundHalfEven]
  have hlt : ¬overflowMag ≤ 0 := (pow2_pos 2098).not_ge
  rw [round_eq, hmag, if_neg hlt]

/-- A sum that is not below zero, of terms that are not both negative, is rounded as its magnitude. -/
theorem add64_fin_of_eq {s t : Bool} {a b n : Nat} (hsign : (s && t) = false) (h : signed s a + signed t b = n) :
    add64 (.fin s a) (.fin t b) = F64.round false n 1 := by
  rw [add64, h, hsign]
  obtain rfl | hn := n.eq_zero_or_pos
  · exact (round_zero 1).symm
  · simp [hn.ne', (Int.natCast_nonneg n).not_gt]

theorem add64_fin_false (a b : Nat) : add64 (.fin false a) (.fin false b) = F64.round false (a + b) 1 :=
  add64_fin_of_eq rfl (by simp [signed])

theorem sub64_fin_false {a b : Nat} (h : b ≤ a) : sub64 (.fin false a) (.fin false b) = F64.round false (a - b) 1 :=
  add64_fin_of_eq rfl (by simp [signed, h]; omega)

theorem mul64_fin_false (a b : Nat) : mul64 (.fin false a) (.fin false b) = F64.round false (a * b) (pow2 1074) := rfl

theorem mul64_inf_false {m : Nat} (hm : 0 < m) : mul64 (.fin false m) (.inf false) = .inf false := if_neg hm.ne'

theorem mul64_comm (x y : F64) : mul64 x y = mul64 y x := by
  cases x <;> cases y <;> simp [mul64, Nat.mul_comm, bne_comm]

theorem unsigned_add64 {x y : F64} (hx : x.unsigned = true) (hy : y.unsigned = true) :
    (add64 x y).unsigned = true := by
  obtain rfl | ⟨a, rfl⟩ := x.unsigned_iff.1 hx <;> obtain rfl | ⟨b, rfl⟩ := y.unsigned_iff.1 hy
  · rfl
  · rfl
  · rfl
  · rw [add64_fin_false]
    exact unsigned_round _ _

theorem unsigned_mul64 {m : Nat} (hm : 0 < m) {x : F64} (hx : x.unsigned = true) :
    (mul64 (.fin false m) x).unsigned = true := by
  obtain rfl | ⟨a, rfl⟩ := x.unsigned_iff.1 hx
  · rw [mul64_inf_false hm]
    rfl
  · exact unsigned_round _ _

theorem unsigned_div64 {m : Nat} (hm : 0 < m) {x : F64} (hx : x.unsigned = true) :
    (div64 x (.fin false m)).unsigned = true := by
  obtain rfl | ⟨a, rfl⟩ := x.unsigned_iff.1 hx
  · rfl
  · rw [div64, if_neg hm.ne']
    exact unsigned_round _ _

theorem unsigned_rha {x : F64} (hx : x.unsigned = true) : (rha x).unsigned = true := by
  obtain rfl | ⟨a, rfl⟩ := x.unsigned_iff.1 hx <;> rfl

/-- Of two unsigned data in order, the greater is +Inf, or both are finite and their magnitudes are in order. -/
theorem le64_unsigned_cases {x y : F64} (hx : x.unsigned = true) (hy : y.unsigned = true) (h : le64 x y = true) :
    y = .inf false ∨ ∃ a b, x = .fin false a ∧ y = .fin false b ∧ a ≤ b := by
  obtain rfl | ⟨b, rfl⟩ := y.unsigned_iff.1 hy
  · exact .inl rfl
  · obtain rfl | ⟨a, rfl⟩ := x.unsigned_iff.1 hx
    · cases h
    · exact .inr ⟨a, b, rfl, rfl, by simpa [le64, signed] using h⟩

theorem le64_inf {x : F64} (hx : x.unsigned = true) : le64 x (.inf false) = true := by
  obtain rfl | ⟨a, rfl⟩ := x.unsigned_iff.1 hx <;> rfl

theorem le64_mul64 {m : Nat} (hm : 0 < m) {x y : F64} (hx : x.unsigned = true) (hy : y.unsigned = true)
    (h : le64 x y = true) : le64 (mul64 (.fin false m) x) (mul64 (.fin false m) y) = true := by
  obtain rfl | ⟨a, b, rfl, rfl, hle⟩ := le64_unsigned_cases hx hy h
  · rw [mul64_inf_false hm]
    exact le64_inf (unsigned_mul64 hm hx)
  · exact le64_round (pow2_pos _) (Nat.mul_le_mul_left m hle)

theorem le64_add64 {x y z : F64} (hx : x.unsigned = true) (hy : y.unsigned = true) (hz : z.unsigned = true)
    (h : le64 x y = true) : le64 (add64 x z) (add64 y z) = true := by
  have hinf {w : F64} (hw : w.unsigned = true) : add64 (.inf false) w = .inf false := by
    obtain rfl | ⟨c, rfl⟩ := w.unsigned_iff.1 hw <;> rfl
  obtain rfl | ⟨a, b, rfl, rfl, hle⟩ := le64_unsigned_cases hx hy h
  · rw [hinf hz]
    exact le64_inf (unsigned_add64 hx hz)
  · obtain rfl | ⟨c, rfl⟩ := z.unsigned_iff.1 hz
    · rfl
    · rw [add64_fin_false, add64_fin_false]
      exact le64_round one_pos (Nat.add_le_add_right hle c)

/-! ### The corners of the function -/

theorem mul64_nan (x : F64) : mul64 x .nan = .nan := by
  cases x <;> rfl

theorem interpolate_nan (idx t : Table) (i : Fin 7) : interpolate idx t i .nan = .nan := by
  have hsub (x : F64) : sub64 .nan x = .nan := rfl
  have hadd (x : F64) : add64 .nan x = .nan := rfl
  rw [interpolate, hsub, mul64_nan, hadd]

/-- A NaN fails the comparison of step 1, passes through steps 2 to 4, and is not clamped (R161). -/
theorem aqiValue_nan (idx t : Table) : aqiValue idx t .nan = .nan := by
  have hround : roundTenths .nan = .nan := rfl
  rw [aqiValue, if_neg (by decide), hround, indexOfRounded, if_neg (by decide), interpolate_nan, clampTop]
  cases highOf idx 6 <;> rfl

theorem ofBits_eq_nan {c : Bits64} (hexp : (c.extractLsb' 52 11).toNat = 2047) (hfrac : c.extractLsb' 0 52 ≠ 0) :
    F64.ofBits c = .nan := by
  have : (c.extractLsb' 0 52).toNat ≠ 0 := fun h => hfrac (BitVec.eq_of_toNat_eq h)
  simp only [F64.ofBits, hexp, if_true, if_neg this]

/-- Settles O40: the pattern is a NaN's, a NaN gives a NaN, and a NaN is written as NAN_OUT. -/
theorem nanGivesNanOut : Obligations.NanGivesNanOut := by
  intro rom t c hexp hfrac
  rw [aqi, ofBits_eq_nan hexp hfrac, aqiValue_nan, F64.toBits]

/-- 10.0 is finite and positive. -/
theorem exists_ten : ∃ m, 0 < m ∧ ten = .fin false m :=
  ⟨_, by positivity, f64OfNat_eq (by omega)⟩

/-- A product with 10 overflows to +Inf only from above zero. -/
theorem not_le64_zero_of_overflow {x : F64} (h : mul64 x ten = .inf false) : le64 x F64.zero = false := by
  obtain ⟨m, hm, hten⟩ := exists_ten
  rw [hten] at h
  match x with
  | .nan => rfl
  | .inf neg =>
    have : neg = false := by simpa [mul64, hm.ne'] using h
    subst this
    rfl
  | .fin true a =>
    rw [mul64, round_eq] at h
    split_ifs at h
    cases h
  | .fin false a =>
    have hpos : a ≠ 0 := by
      rintro rfl
      rw [mul64_fin_false, zero_mul, round_zero] at h
      cases h
    simpa [le64, F64.zero, signed] using hpos

theorem roundTenths_of_overflow {x : F64} (h : mul64 x ten = .inf false) : roundTenths x = .inf false := by
  obtain ⟨m, -, hten⟩ := exists_ten
  rw [roundTenths, h, hten]
  rfl

/-- Settles O41: the rounded value is +Inf, which gives the top of the output range, and that is 500. -/
theorem overflowGivesTopIndex : Obligations.OverflowGivesTopIndex := by
  refine ⟨fun rom t c hrom h => ?_, by decide +kernel⟩
  rw [aqi, aqiValue, if_neg (Bool.eq_false_iff.1 (not_le64_zero_of_overflow h)), roundTenths_of_overflow h,
    indexOfRounded, if_pos rfl, highOf_idx_of_romWf hrom, ← ofBits_idxMax]
  exact bitPatternsRoundTrip rom.nanOut Config.idxMax (by decide)

/-- Settles O43: past step 1 only the rounded value is read. -/
theorem sameRoundingSameIndex : Obligations.SameRoundingSameIndex := by
  refine ⟨fun rom t c c' hc hc' h => ?_, by decide +kernel, by decide +kernel⟩
  rw [aqi, aqi, aqiValue, aqiValue, if_neg (Bool.eq_false_iff.1 hc), if_neg (Bool.eq_false_iff.1 hc'), h]

/-! ### The default tables -/

/-- Step 4's quotient of the two widths (R158). -/
def slopeOf (idx t : Table) (i : Fin 7) : F64 :=
  div64 (sub64 (highOf idx i) (lowOf idx i)) (sub64 (highOf t i) (lowOf t i))

theorem interpolate_eq (idx t : Table) (i : Fin 7) (r : F64) :
    interpolate idx t i r = add64 (mul64 (slopeOf idx t i) (sub64 r (lowOf t i))) (lowOf idx i) := rfl

theorem highOf_default_idx : highOf Config.idx 6 = F64.ofBits Config.idxMax := rfl

/-- The clamp gives the top of the default output range for everything from there on (R159). -/
theorem clampTop_of_top_le {x : F64} (h : le64 (highOf Config.idx 6) x = true) :
    clampTop Config.idx x = highOf Config.idx 6 := by
  rw [clampTop]
  split_ifs with hgt
  · rfl
  · obtain ⟨htop, hx, -⟩ := (le64_iff _ x).1 h
    have hle := (lt64_or_le64 htop hx).resolve_left hgt
    rw [highOf_default_idx] at h hle ⊢
    rw [(le64_idxMax_iff x).1 ⟨hle, h⟩, ofBits_idxMax]

/-- In every bucket of the default tables the low bounds have no sign and the slope is positive and finite; the first low bound is zero. -/
theorem default_ranges : ∀ t ∈ [Config.bp25, Config.bp10], lowOf t 0 = F64.zero ∧ ∀ i : Fin 7,
    (lowOf Config.idx i).unsigned = true ∧ (lowOf t i).unsigned = true ∧
      (slopeOf Config.idx t i).isFinite = true ∧ lt64 F64.zero (slopeOf Config.idx t i) = true := by
  decide +kernel

section
variable {t : Table} (ht : t ∈ [Config.bp25, Config.bp10])
include ht

theorem default_slope (i : Fin 7) : ∃ m, 0 < m ∧ slopeOf Config.idx t i = .fin false m := by
  obtain ⟨-, -, hfin, hpos⟩ := (default_ranges t ht).2 i
  obtain h | ⟨m, h⟩ := (F64.unsigned_iff _).1 (F64.unsigned_of_lt64 rfl hpos)
  · rw [h] at hfin
    cases hfin
  · refine ⟨m, ?_, h⟩
    simpa [h, lt64, F64.zero, signed] using hpos

/-- In its bucket a finite value interpolates to a datum without a sign, and a greater one to no less. -/
theorem default_interpolate {a a' : Nat} {i : Fin 7} (hlow : le64 (lowOf t i) (.fin false a) = true) (h : a ≤ a') :
    (interpolate Config.idx t i (.fin false a)).unsigned = true ∧
      le64 (interpolate Config.idx t i (.fin false a)) (interpolate Config.idx t i (.fin false a')) = true := by
  obtain ⟨hidx, hbp, -, -⟩ := (default_ranges t ht).2 i
  obtain ⟨m, hm, hslope⟩ := default_slope ht i
  obtain hinf | ⟨b, c, hb, hc, hle⟩ := le64_unsigned_cases hbp rfl hlow
  · cases hinf
  obtain rfl : a = c := (F64.fin.inj hc).2
  simp only [interpolate_eq, hslope, hb, sub64_fin_false hle, sub64_fin_false (hle.trans h)]
  have hmul (n : Nat) := unsigned_mul64 hm (unsigned_round n 1)
  exact ⟨unsigned_add64 (hmul _) hidx, le64_add64 (hmul _) (hmul _) hidx
    (le64_mul64 hm (unsigned_round _ _) (unsigned_round _ _) (le64_round one_pos (Nat.sub_le_sub_right h b)))⟩

/-- A value without a sign is not below the low bound of its bucket (R157). -/
theorem default_lowOf_bucketOf_le {r : F64} (hr : r.unsigned = true) : le64 (lowOf t (bucketOf t r)) r = true := by
  obtain ⟨hbucket, -⟩ | ⟨hlt, -⟩ := bucketOf_cases t r
  · rw [hbucket, (default_ranges t ht).1]
    exact F64.le64_zero_of_unsigned hr
  · exact le64_of_lt64 hlt

theorem unsigned_default_index {r : F64} (hr : r.unsigned = true) :
    (indexOfRounded Config.idx t r).unsigned = true := by
  have htop : (highOf Config.idx 6).unsigned = true := by decide
  obtain rfl | ⟨a, rfl⟩ := r.unsigned_iff.1 hr
  · exact htop
  · rw [indexOfRounded, if_neg nofun, clampTop]
    split_ifs
    · exact htop
    · exact (default_interpolate ht (default_lowOf_bucketOf_le ht hr) le_rfl).1

/-- From a value of the last bucket on whose interpolation is at least the top, every index is the top. -/
theorem default_index_saturates {r₀ r : F64} (hlow : lt64 (lowOf t 6) r₀ = true)
    (htop : le64 (highOf Config.idx 6) (interpolate Config.idx t 6 r₀) = true) (h : le64 r₀ r = true) :
    indexOfRounded Config.idx t r = highOf Config.idx 6 := by
  obtain ⟨-, hbp, -, -⟩ := (default_ranges t ht).2 6
  have hlow' := lt64_of_lt64_of_le64 hlow h
  obtain rfl | ⟨a, b, rfl, rfl, hle⟩ :=
    le64_unsigned_cases (F64.unsigned_of_lt64 hbp hlow) (F64.unsigned_of_lt64 hbp hlow') h
  · rfl
  have hbucket : bucketOf t (.fin false b) = 6 :=
    le_antisymm (Fin.le_last _) ((bucketIsLargestBelow t (.fin false b)).1 6 hlow')
  have hmono := (default_interpolate ht (le64_of_lt64 hlow) hle).2
  rw [indexOfRounded, if_neg nofun, hbucket]
  exact clampTop_of_top_le (le64_trans htop hmono)

end

theorem unsigned_roundTenths {x : F64} (hx : x.unsigned = true) : (roundTenths x).unsigned = true := by
  obtain ⟨m, hm, hten⟩ := exists_ten
  rw [roundTenths, hten, mul64_comm]
  exact unsigned_div64 hm (unsigned_rha (unsigned_mul64 hm hx))

/-- Settles O45: with these tables every step past the first keeps the value without a sign, and the clamp keeps it at most 500. -/
theorem defaultIndexInRange : Obligations.DefaultIndexInRange := by
  intro t c ht hnan
  rw [aqiValue]
  split_ifs with hle
  · decide +kernel
  have hpos := (lt64_or_le64 (x := F64.zero) nofun hnan).resolve_right hle
  have hindex := unsigned_default_index ht (unsigned_roundTenths (F64.unsigned_of_lt64 (x := F64.zero) rfl hpos))
  refine ⟨F64.le64_zero_of_unsigned hindex, ?_⟩
  rw [← highOf_default_idx]
  exact (lt64_or_le64 (by decide) (F64.ne_nan_of_unsigned hindex)).resolve_left
    (Bool.eq_false_iff.1 (not_gt64_indexOfRounded Config.idx t _))

/-- Settles O46: the interpolation reaches the top at the least value of each clause. -/
theorem defaultIndexSaturates : Obligations.DefaultIndexSaturates := by
  refine fun r => ⟨fun h => ?_, fun h => ?_⟩
  · exact default_index_saturates (.head _) (by decide +kernel) (by decide +kernel) h
  · exact default_index_saturates (.tail _ (.head _)) (by decide +kernel) (by decide +kernel) h

/-- Settles O47: 425.0 is interpolated past the end of its bucket, and 425.1 lies in the next one. -/
theorem pmTenNotMonotone : Obligations.PmTenNotMonotone :=
  ⟨0x407A900000000000, 0x407A91999999999A, by decide +kernel⟩

end Sys2Proof.Machine
end
